-- ==== Sys2Proof/Word.lean ====
section
/-! DEFINITION. The word types of the sync/FEC core: register words, bytes and soft values. -/

namespace Sys2Proof

/-- A 32-bit host register word (00_scope.md R9, `REG_W`; 10_state.md R21). -/
abbrev Word := BitVec 32

/-- A byte of a frame (30_encoding.md R87). -/
abbrev Byte := BitVec 8

/-- The 8-bit pattern of a soft value; its number is `int8` of the pattern, that is `BitVec.toInt` (00_scope.md R9, R12). -/
abbrev Soft := BitVec 8

/-- The bytes of `v`, least significant first, as a bus with byte lanes carries them (20_memory.md R62). -/
def leBytes (count : Nat) (v : Nat) : List Byte :=
  match count with
  | 0 => []
  | c + 1 => BitVec.ofNat 8 v :: leBytes c (v / 256)

/-- The number that bytes, least significant first, stand for (20_memory.md R62). -/
def ofLeBytes : List Byte → Nat
  | [] => 0
  | b :: rest => b.toNat + 256 * ofLeBytes rest

end Sys2Proof
end

