-- ==== Sys2Proof/Syntax.lean ====
section
/-! DEFINITION. The events and operations of the block: one constructor of `Instr` per row of spec/opcode_table.json, the ports
at which they are offered, and the names under which the decoder refuses a word. -/

namespace Sys2Proof

/-- Where an event is offered. The first five are the spec's (40_streams.md R110): `host` carries bus transactions
(30_encoding.md R80), `cmd` carries a word written to `CMD` (R82; log 22), `input` and `output` the stream beats (R85, R87) and
`reset` the hardware reset. The others are the model's: one for each unit whose operation a `MODE` field or the deframer's phase
selects (R91), so that the operation can be invoked by itself (DESIGN CHOICE, log 4). -/
inductive Port
  | host | cmd | input | output | reset
  | hypothesis | score | derand | diff | pack | rs | deframer
  deriving DecidableEq, Repr

/-- One pending event of an agent: the port and the bits offered there, as bytes, least significant byte first (log 1, 3). -/
structure Offer where
  /-- where the event is offered -/
  port : Port
  /-- the bits offered, byte lane 0 first -/
  bytes : List Byte
  deriving DecidableEq, Repr

/-- Why the decoder refuses the bytes offered at a port. Refusing takes no step, so every reason is safe. -/
inductive DecodeError
  /-- a host access at an offset whose bits 1:0 are not zero (20_memory.md R66) -/
  | misalignedOffset
  /-- a host access that does not carry exactly the transaction's byte lanes: a width other than 32 bits (20_memory.md R66) -/
  | accessWidth
  /-- bits that the format keeps at zero are not zero -/
  | reservedBits
  /-- the number of bytes is not that of the port's format -/
  | byteCount
  /-- the offered `MODE` word selects no operation of this unit (30_encoding.md R91) -/
  | notSelected
  /-- a hypothesis index outside the modulation's set (30_encoding.md R90) -/
  | hypothesisIndex
  /-- a payload or frame whose length no legal configuration gives (10_state.md R29; 45_reed_solomon.md R230) -/
  | payloadLength
  /-- a hardware reset, or an output beat without `out_ready`, which no row of the opcode table encodes -/
  | noRow
  deriving DecidableEq, Repr

/-- What a word written to `CMD` asks for (30_encoding.md R83, R84). -/
inductive Command
  | nop | start | stop | softReset | resync | clearCounters | clearErrors
  /-- bits 31:4 not zero, or OPCODE 7 to F (R84) -/
  | illegal
  deriving DecidableEq, Repr

/-- One constructor per row of spec/opcode_table.json, in the table's order within each file. -/
inductive Instr
  /-- command `NOP` (47_host_commands.md R278) -/
  | nop
  /-- command `START` (R272) -/
  | start
  /-- command `STOP` (R273) -/
  | stop
  /-- command `SOFT_RESET` (R274) -/
  | softReset
  /-- command `RESYNC` (R275) -/
  | resync
  /-- command `CLEAR_COUNTERS` (R276) -/
  | clearCounters
  /-- command `CLEAR_ERRORS` (R277) -/
  | clearErrors
  /-- a word written to `CMD` that is no command: any of bits 31:4 set, or OPCODE 7 to F (R279) -/
  | cmdIllegal (w : Word)
  /-- host read of the register at `off` (R270) -/
  | read (off : BitVec 12)
  /-- host write of `v` to the register at `off` (R271) -/
  | write (off : BitVec 12) (v : Word)
  /-- one input beat with `LAST = 0` (40_streams.md R112) -/
  | sym (d : Soft)
  /-- one input beat with `LAST = 1` (R113) -/
  | symLast (d : Soft)
  /-- the consumer accepts one output beat (R118) -/
  | pop
  /-- corrected value of bit `n` under hypothesis `h`, BPSK (41_correlator.md R132) -/
  | hypBpsk (n : Nat) (h : BitVec 1)
  /-- corrected value of bit `n` under hypothesis `h`, QPSK (R133) -/
  | hypQpsk (n : Nat) (h : BitVec 3)
  /-- hard score of the window at `n` under hypothesis `h` (R135) -/
  | scoreHard (n : Nat) (h : BitVec 3)
  /-- soft score of the window at `n` under hypothesis `h` (R136) -/
  | scoreSoft (n : Nat) (h : BitVec 3)
  /-- remove the pseudo-noise sequence from a payload (43_descrambler.md R182) -/
  | derand (x : List Soft)
  /-- NRZ-M differential decode of one soft value (R185) -/
  | nrzm (y : Soft)
  /-- NRZ-S differential decode of one soft value (R186) -/
  | nrzs (y : Soft)
  /-- pack hard decisions into bytes (46_frame_chain.md R252) -/
  | hardPack (z : List Soft)
  /-- Viterbi decode one frame (44_viterbi.md R208) -/
  | vitDecode (z : List Soft)
  /-- Reed-Solomon decode one interleaved frame, RS(255,223) (45_reed_solomon.md R232) -/
  | rsDecode223 (frame : List Byte)
  /-- Reed-Solomon decode one interleaved frame, RS(255,239) (R232) -/
  | rsDecode239 (frame : List Byte)
  /-- `START` meeting the selection `DIFF_MODE = 3` (43_descrambler.md R191) -/
  | diffReserved
  /-- best hypothesis at window start `n` (41_correlator.md R137) -/
  | correlate (n : Nat)
  /-- one acquisition attempt at `POS` (42_deframer.md R153) -/
  | acqEval
  /-- the last payload bit of the frame at `POS` is available (R155) -/
  | collect
  /-- fixed-position check at `POS` (R157) -/
  | checkEval
  /-- build, decode and queue the frame at `POS` (46_frame_chain.md R250) -/
  | frameEmit
  deriving DecidableEq, Repr

end Sys2Proof
end

