-- ==== Sys2Proof/WellFormed.lean ====
section
/-! DEFINITION. Which terms of `Instr` are instructions: the operand ranges that the encodings admit. -/

namespace Sys2Proof

/-- A window start or bit index that its 64-bit operand field holds (log 4). -/
def wfIndex (n : Nat) : Bool := decide (n < 2 ^ 64)

/-- A word that is no command: bits 31:4 not zero, or OPCODE 7 to F (30_encoding.md R84). -/
def wfIllegalWord (w : Word) : Bool := decide (7 ≤ w.toNat)

/-- A register offset: bits 1:0 zero (20_memory.md R66). -/
def wfOffset (off : BitVec 12) : Bool := decide (off.toNat % 4 = 0)

/-- A payload of whole bytes, of at least one (10_state.md R29: `(F − L) mod 8 = 0`, `L < F`). -/
def wfPayload (x : List Soft) : Bool := decide (0 < x.length ∧ x.length % 8 = 0)

/-- A coded payload of whole decoded bytes (10_state.md R29: `(F − L) mod 16 = 0`; 44_viterbi.md R200). -/
def wfCodedPayload (z : List Soft) : Bool := decide (0 < z.length ∧ z.length % 16 = 0)

/-- An interleaved frame of `255 · I` bytes, `I` from 1 to 8 (45_reed_solomon.md R230; 30_encoding.md R92). -/
def wfRsFrame (frame : List Byte) : Bool :=
  decide (0 < frame.length ∧ frame.length % 255 = 0 ∧ frame.length ≤ 2040)

/-- The instructions whose operands an encoding admits. -/
def wf : Instr → Bool
  | .nop => true
  | .start => true
  | .stop => true
  | .softReset => true
  | .resync => true
  | .clearCounters => true
  | .clearErrors => true
  | .cmdIllegal w => wfIllegalWord w
  | .read off => wfOffset off
  | .write off _ => wfOffset off
  | .sym _ => true
  | .symLast _ => true
  | .pop => true
  | .hypBpsk n _ => wfIndex n
  | .hypQpsk n _ => wfIndex n
  | .scoreHard n _ => wfIndex n
  | .scoreSoft n _ => wfIndex n
  | .derand x => wfPayload x
  | .nrzm _ => true
  | .nrzs _ => true
  | .hardPack z => wfPayload z
  | .vitDecode z => wfCodedPayload z
  | .rsDecode223 frame => wfRsFrame frame
  | .rsDecode239 frame => wfRsFrame frame
  | .diffReserved => true
  | .correlate n => wfIndex n
  | .acqEval => true
  | .collect => true
  | .checkEval => true
  | .frameEmit => true

end Sys2Proof
end

