-- ==== Sys2Proof/Decode.lean ====
section
/-! DEFINITION. The decoder: from the bytes offered at a port to an instruction or a named refusal, total on any bytes; then the
encoder, written from the same encoding tables. -/

namespace Sys2Proof

/-! ## Decoding -/

/-- The command a word written to `CMD` stands for: the whole word is matched (30_encoding.md R82, R83, R84). -/
def commandOf (w : Word) : Command :=
  match w.toNat with
  | 0 => .nop
  | 1 => .start
  | 2 => .stop
  | 3 => .softReset
  | 4 => .resync
  | 5 => .clearCounters
  | 6 => .clearErrors
  | _ => .illegal

/-- A command word as an instruction (30_encoding.md R83, R84). -/
def decodeCommand (w : Word) : Instr :=
  match commandOf w with
  | .nop => .nop
  | .start => .start
  | .stop => .stop
  | .softReset => .softReset
  | .resync => .resync
  | .clearCounters => .clearCounters
  | .clearErrors => .clearErrors
  | .illegal => .cmdIllegal w

/-- The four bytes of a word written to `CMD` (30_encoding.md R82). -/
def decodeCmd (bytes : List Byte) : Except DecodeError Instr :=
  if bytes.length = 4 then .ok (decodeCommand (BitVec.ofNat 32 (ofLeBytes bytes))) else .error .accessWidth

/-- A host transaction (30_encoding.md R80) of 45 bits in six bytes: bit 0 `rw`, bits 12:1 `off`, bits 44:13 `wdata`, bits 47:45
zero; a read carries `wdata = 0`. DESIGN CHOICE: R80 names the fields and places none of them (log 3). A misaligned offset or a
transaction without exactly these lanes is refused (20_memory.md R66). -/
def decodeHost (bytes : List Byte) : Except DecodeError Instr :=
  let t := ofLeBytes bytes
  let off := BitVec.ofNat 12 (t / 2)
  let wdata := BitVec.ofNat 32 (t / 2 ^ 13)
  if bytes.length ≠ 6 then .error .accessWidth
  else if t / 2 ^ 45 ≠ 0 then .error .reservedBits
  else if wfOffset off = false then .error .misalignedOffset
  else if t % 2 = 1 then .ok (.write off wdata)
  else if wdata = 0 then .ok (.read off)
  else .error .reservedBits

/-- An input beat: bits 7:0 `DATA`, bit 8 `LAST` (30_encoding.md R85), in two bytes whose other bits are zero. -/
def decodeInput (bytes : List Byte) : Except DecodeError Instr :=
  let t := ofLeBytes bytes
  if bytes.length ≠ 2 then .error .byteCount
  else if t / 2 ^ 9 ≠ 0 then .error .reservedBits
  else if t / 2 ^ 8 = 1 then .ok (.symLast (BitVec.ofNat 8 t))
  else .ok (.sym (BitVec.ofNat 8 t))

/-- The consumer's side of an output beat: bit 0 is `out_ready` (30_encoding.md R87; 40_streams.md R118; log 3). -/
def decodeOutput : List Byte → Except DecodeError Instr
  | [b] => if b = 1 then .ok .pop else if b = 0 then .error .noRow else .error .reservedBits
  | _ => .error .byteCount

/-- Field `hi:lo` of an offered `MODE` word, `width = hi - lo + 1` (00_scope.md R11). -/
def modeField (m0 m1 : Byte) (lo width : Nat) : Nat :=
  (m0.toNat + 256 * m1.toNat) / 2 ^ lo % 2 ^ width

/-- The hypothesis unit: `MODE.MOD` selects (30_encoding.md R91); then the bit index and the hypothesis index (log 4). -/
def decodeHypothesis : List Byte → Except DecodeError Instr
  | m0 :: m1 :: rest =>
    let n := ofLeBytes (rest.take 8)
    let h := ofLeBytes (rest.drop 8)
    if rest.length ≠ 9 then .error .byteCount
    else if modeField m0 m1 0 1 = 0 then
      if h < 2 then .ok (.hypBpsk n (BitVec.ofNat 1 h)) else .error .hypothesisIndex
    else if h < 8 then .ok (.hypQpsk n (BitVec.ofNat 3 h))
    else .error .hypothesisIndex
  | _ => .error .byteCount

/-- The score unit: `MODE.CORR_SOFT` selects (30_encoding.md R91); then the window start and the hypothesis index (log 4). -/
def decodeScore : List Byte → Except DecodeError Instr
  | m0 :: m1 :: rest =>
    let n := ofLeBytes (rest.take 8)
    let h := ofLeBytes (rest.drop 8)
    if rest.length ≠ 9 then .error .byteCount
    else if 8 ≤ h then .error .hypothesisIndex
    else if modeField m0 m1 1 1 = 0 then .ok (.scoreHard n (BitVec.ofNat 3 h))
    else .ok (.scoreSoft n (BitVec.ofNat 3 h))
  | _ => .error .byteCount

/-- The derandomizer: `MODE.DERAND_EN = 1` selects (30_encoding.md R91); then the payload's soft values (log 4). -/
def decodeDerand : List Byte → Except DecodeError Instr
  | m0 :: m1 :: x =>
    if modeField m0 m1 2 1 = 0 then .error .notSelected
    else if wfPayload x then .ok (.derand x) else .error .payloadLength
  | _ => .error .byteCount

/-- The differential decoder: `MODE.DIFF_MODE` selects (30_encoding.md R91, R92); then one soft value (log 4). -/
def decodeDiff : List Byte → Except DecodeError Instr
  | [m0, m1, y] =>
    match modeField m0 m1 3 2 with
    | 0 => .error .notSelected
    | 1 => .ok (.nrzm y)
    | 2 => .ok (.nrzs y)
    | _ => if y = 0 then .ok .diffReserved else .error .reservedBits
  | _ => .error .byteCount

/-- Soft values to bytes: `MODE.VIT_EN` selects packing or the Viterbi decoder (30_encoding.md R91); then the frame's soft values
(log 4). -/
def decodePack : List Byte → Except DecodeError Instr
  | m0 :: m1 :: z =>
    if modeField m0 m1 5 1 = 0 then
      if wfPayload z then .ok (.hardPack z) else .error .payloadLength
    else if wfCodedPayload z then .ok (.vitDecode z)
    else .error .payloadLength
  | _ => .error .byteCount

/-- The Reed-Solomon decoder: `MODE.RS_EN = 1` and `MODE.RS_PROFILE` select (30_encoding.md R91); then the frame (log 4). -/
def decodeRs : List Byte → Except DecodeError Instr
  | m0 :: m1 :: frame =>
    if modeField m0 m1 6 1 = 0 then .error .notSelected
    else if wfRsFrame frame = false then .error .payloadLength
    else if modeField m0 m1 7 1 = 0 then .ok (.rsDecode223 frame)
    else .ok (.rsDecode239 frame)
  | _ => .error .byteCount

/-- The deframer's and the frame chain's operations, which the deframer's phase selects and which have no numeric encoding
(30_encoding.md R91): a number of the model's own, and for `CORRELATE` the window start (DESIGN CHOICE, log 4). -/
def decodeDeframer : List Byte → Except DecodeError Instr
  | b :: rest =>
    match b.toNat with
    | 0 => if rest.length = 8 then .ok (.correlate (ofLeBytes rest)) else .error .byteCount
    | 1 => if rest = [] then .ok .acqEval else .error .byteCount
    | 2 => if rest = [] then .ok .collect else .error .byteCount
    | 3 => if rest = [] then .ok .checkEval else .error .byteCount
    | 4 => if rest = [] then .ok .frameEmit else .error .byteCount
    | _ => .error .notSelected
  | [] => .error .byteCount

/-- The instruction offered at a port. The formats of the opcode table are separate encoding spaces, so the port names the
format (30_encoding.md, opening paragraph; log 4). -/
def decode (port : Port) (bytes : List Byte) : Except DecodeError Instr :=
  match port with
  | .host => decodeHost bytes
  | .cmd => decodeCmd bytes
  | .input => decodeInput bytes
  | .output => decodeOutput bytes
  | .reset => .error .noRow
  | .hypothesis => decodeHypothesis bytes
  | .score => decodeScore bytes
  | .derand => decodeDerand bytes
  | .diff => decodeDiff bytes
  | .pack => decodePack bytes
  | .rs => decodeRs bytes
  | .deframer => decodeDeframer bytes

/-! ## Encoding -/

/-- The port at which an instruction is offered. -/
def portOf : Instr → Port
  | .nop => .cmd
  | .start => .cmd
  | .stop => .cmd
  | .softReset => .cmd
  | .resync => .cmd
  | .clearCounters => .cmd
  | .clearErrors => .cmd
  | .cmdIllegal _ => .cmd
  | .read _ => .host
  | .write _ _ => .host
  | .sym _ => .input
  | .symLast _ => .input
  | .pop => .output
  | .hypBpsk _ _ => .hypothesis
  | .hypQpsk _ _ => .hypothesis
  | .scoreHard _ _ => .score
  | .scoreSoft _ _ => .score
  | .derand _ => .derand
  | .nrzm _ => .diff
  | .nrzs _ => .diff
  | .hardPack _ => .pack
  | .vitDecode _ => .pack
  | .rsDecode223 _ => .rs
  | .rsDecode239 _ => .rs
  | .diffReserved => .diff
  | .correlate _ => .deframer
  | .acqEval => .deframer
  | .collect => .deframer
  | .checkEval => .deframer
  | .frameEmit => .deframer

/-- The bytes of an instruction at its port: command words (30_encoding.md R83), transactions (R80; log 3), beats (R85, R87), and
for the units the row's `match` value as the `MODE` word, then the operands (R91; log 4). -/
def encode : Instr → List Byte
  | .nop => leBytes 4 0
  | .start => leBytes 4 1
  | .stop => leBytes 4 2
  | .softReset => leBytes 4 3
  | .resync => leBytes 4 4
  | .clearCounters => leBytes 4 5
  | .clearErrors => leBytes 4 6
  | .cmdIllegal w => leBytes 4 w.toNat
  | .read off => leBytes 6 (2 * off.toNat)
  | .write off v => leBytes 6 (1 + 2 * off.toNat + 2 ^ 13 * v.toNat)
  | .sym d => leBytes 2 d.toNat
  | .symLast d => leBytes 2 (2 ^ 8 + d.toNat)
  | .pop => [1]
  | .hypBpsk n h => leBytes 2 0x0000 ++ leBytes 8 n ++ leBytes 1 h.toNat
  | .hypQpsk n h => leBytes 2 0x0001 ++ leBytes 8 n ++ leBytes 1 h.toNat
  | .scoreHard n h => leBytes 2 0x0000 ++ leBytes 8 n ++ leBytes 1 h.toNat
  | .scoreSoft n h => leBytes 2 0x0002 ++ leBytes 8 n ++ leBytes 1 h.toNat
  | .derand x => leBytes 2 0x0004 ++ x
  | .nrzm y => leBytes 2 0x0008 ++ [y]
  | .nrzs y => leBytes 2 0x0010 ++ [y]
  | .hardPack z => leBytes 2 0x0000 ++ z
  | .vitDecode z => leBytes 2 0x0020 ++ z
  | .rsDecode223 frame => leBytes 2 0x0040 ++ frame
  | .rsDecode239 frame => leBytes 2 0x00C0 ++ frame
  | .diffReserved => leBytes 2 0x0018 ++ [0]
  | .correlate n => 0 :: leBytes 8 n
  | .acqEval => [1]
  | .collect => [2]
  | .checkEval => [3]
  | .frameEmit => [4]

/-- An instruction as the offer that an agent makes of it. -/
def offerOf (i : Instr) : Offer := { port := portOf i, bytes := encode i }

/-! ## Words of the opcode table -/

/-- The port whose format a word of spec/opcode_table.json is read in. The table's formats share words (READ, HYP_BPSK,
SCORE_HARD and HARD_PACK all match 0; SYM matches 0 too), and a width and a number do not name the format: 32 bits are a command
word and more a transaction; `0` and `1` in one byte are a transaction's `rw` bit; in two bytes `0` and any word with bit 8 set is
a beat; the other words that a `mode_select` row fixes are that row's. DESIGN CHOICE, log 5. -/
def tablePort (nbits w : Nat) : Port :=
  if 32 < nbits then .host
  else if 16 < nbits then .cmd
  else if nbits ≤ 8 ∧ w ≤ 1 then .host
  else
    match w with
    | 0x01 => .hypothesis
    | 0x02 => .score
    | 0x04 => .derand
    | 0x08 => .diff
    | 0x10 => .diff
    | 0x18 => .diff
    | 0x20 => .pack
    | 0x40 => .rs
    | 0xC0 => .rs
    | _ => .input

/-- How many bytes a table word is laid out in at a port: the format's length, with operand bytes of zeros (for a payload two
decoded bytes, for a Reed-Solomon frame the reset configuration's 1020 bytes; log 5). -/
def tableLength : Port → Nat
  | .host => 6
  | .cmd => 4
  | .input => 2
  | .output => 1
  | .reset => 0
  | .hypothesis => 11
  | .score => 11
  | .derand => 18
  | .diff => 3
  | .pack => 18
  | .rs => 1022
  | .deframer => 1

/-- The offer that a table word of `nbits` bits stands for: the word's bytes, least significant first, every further bit zero. -/
def tableOffer (nbits w : Nat) : Offer :=
  { port := tablePort nbits w
    bytes := leBytes (tableLength (tablePort nbits w)) (w % 2 ^ nbits) }

/-- The instruction the decoder reads from a word of the opcode table. -/
def decodeTableWord (nbits w : Nat) : Option Instr :=
  match decode (tableOffer nbits w).port (tableOffer nbits w).bytes with
  | .ok i => some i
  | .error _ => none

end Sys2Proof
end

