-- ==== Sys2Proof/Config.lean ====
section
/-! DEFINITION. What an implementation of the block fixes: the constants the spec chooses, the open parameters (without a
value) and the free values. -/

namespace Sys2Proof.Config

/-- `ID` reads this constant in all states (10_state.md R23). -/
def idValue : Word := 0x53440025

/-- `VERSION` reads this constant in all states (10_state.md R23). -/
def versionValue : Word := 0x00000007

/-- Largest marker length in bits, `L_MAX` (00_scope.md R9). -/
def lMax : Nat := 64

/-- Largest RS interleave depth, `I_MAX` (00_scope.md R9). -/
def iMax : Nat := 8

/-- Smallest legal Viterbi constraint length, `K_MIN` (00_scope.md R9). -/
def kMin : Nat := 3

/-- Largest legal Viterbi constraint length, `K_MAX` (00_scope.md R9). -/
def kMax : Nat := 9

/-- The number of trellis states at the largest constraint length, `2^(K_MAX - 1)`: the length at which path metrics are held
(log 14). -/
def pmStates : Nat := 256

/-- The 32-bit word behind `P_OUT_CAP`; an implementation chooses it (00_scope.md R10; log 12). -/
opaque outCapWord : Word

/-- The 32-bit word behind `P_MAX_FRAME_BITS`; an implementation chooses it (00_scope.md R10; log 12). -/
opaque maxFrameBitsWord : Word

/-- `P_BASE`, the platform address of register offset 0, which no rule depends on (00_scope.md R10; 20_memory.md R61). -/
opaque pBase : Nat

/-- `P_OUT_CAP`, the capacity of the output queue in frames, an integer of at least 1 (00_scope.md R10). DEDUCED: it fits a
register word, since `CAPS` reads it (log 12). -/
def outCap : Nat := max 1 outCapWord.toNat

/-- `P_MAX_FRAME_BITS`, the largest legal `FRAME_BITS`, an integer of at least 72 (00_scope.md R10). DEDUCED: it fits a register
word, since `MAX_FRAME_BITS` reads it (log 12). -/
def maxFrameBits : Nat := max 72 maxFrameBitsWord.toNat

/-- The platform address of a register offset (20_memory.md R61); no rule uses it. -/
def platformAddress (off : BitVec 12) : Nat := pBase + off.toNat

/-- A free value: what a rule would read as `V[j]` where fewer than `j + 1` values have been accepted (10_state.md R48 gives
`V[j]` for `j < NV` only; log 10). -/
opaque beyondSoft : Nat → Soft

/-- A free value: what a rule would read as byte `k` of a frame that has no byte `k` (log 11). -/
opaque beyondByte : Nat → Byte

end Sys2Proof.Config
end

