-- ==== Sys2Proof/Machine/State.lean ====
section
/-! DEFINITION. The state of the block as plain data, the reasons a step can stop, and the state after reset. -/

namespace Sys2Proof.Machine

/-- Run state (10_state.md R43). -/
inductive RunState
  | idle | running | stopped | done
  deriving DecidableEq, Repr

/-- Lock state of the deframer (10_state.md R46). -/
inductive Lock
  | noSync | syncing | synced
  deriving DecidableEq, Repr

/-- Phase of the deframer (10_state.md R46). -/
inductive Phase
  | search | collect | check
  deriving DecidableEq, Repr

/-- The sticky error bits of `STATUS` (60_exceptions.md R301). -/
inductive StatusBit
  | cfgErr | cmdErr | wrErr | aborted
  deriving DecidableEq, Repr

/-- A frame of the output queue: its bytes and its tag (10_state.md R51). -/
structure Frame where
  /-- the frame's bytes in delivery order -/
  bytes : List Byte
  /-- the 32-bit tag (30_encoding.md R89) -/
  tag : Word
  deriving DecidableEq, Repr

/-- An output beat (30_encoding.md R87). -/
structure OutBeat where
  /-- frame byte -/
  data : Byte
  /-- 1 on the first byte of a frame -/
  sof : Bool
  /-- 1 on the last byte of a frame -/
  eof : Bool
  /-- the frame's tag on its last byte, else 0 -/
  tag : Word
  deriving DecidableEq, Repr

/-- What the last value-returning event gave at its port. The spec's reads and operations return values and its output beats
deliver them, and no rule says where such a value stands after the event: this is the model's own (DESIGN CHOICE, log 6). -/
inductive Answer
  /-- no value has been returned yet -/
  | none
  /-- read data of a host read (47_host_commands.md R270) -/
  | rdata (w : Word)
  /-- a delivered output beat (40_streams.md R118) -/
  | beat (b : OutBeat)
  /-- one corrected or decoded soft value (41_correlator.md R132, R133; 43_descrambler.md R185, R186) -/
  | soft (v : Soft)
  /-- a score (41_correlator.md R135, R136) -/
  | score (x : Int)
  /-- best hypothesis and best score (41_correlator.md R137) -/
  | best (h : BitVec 3) (x : Int)
  /-- a derandomized payload (43_descrambler.md R182) -/
  | softs (xs : List Soft)
  /-- packed bytes (46_frame_chain.md R252) -/
  | bytes (bs : List Byte)
  /-- Viterbi output bytes and estimated bit-error count (44_viterbi.md R208) -/
  | decoded (bs : List Byte) (ber : Nat)
  /-- Reed-Solomon output bytes, corrected counts and uncorrectable marks by branch (45_reed_solomon.md R232) -/
  | corrected (bs : List Byte) (count : List Nat) (uncorr : List Bool)
  deriving DecidableEq, Repr

/-- The configuration registers, access class RWI (10_state.md R22, R26 to R33). -/
structure CfgRegs where
  /-- MODE 0x010 (R26) -/
  mode : Word
  /-- SYNC_LEN 0x014 (R27) -/
  syncLen : Word
  /-- SYNC_WORD_LO 0x018 (R28) -/
  syncWordLo : Word
  /-- SYNC_WORD_HI 0x01C (R28) -/
  syncWordHi : Word
  /-- FRAME_BITS 0x020 (R29) -/
  frameBits : Word
  /-- ACQ_THRESH 0x024 (R30) -/
  acqThresh : Word
  /-- CHK_THRESH 0x028 (R31) -/
  chkThresh : Word
  /-- LOCK_CFG 0x02C (R32) -/
  lockCfg : Word
  /-- VIT_CFG 0x030 (R33) -/
  vitCfg : Word
  deriving DecidableEq, Repr

/-- The event counters and last-value registers (10_state.md R34 to R36, R38 to R41). -/
structure Counters where
  /-- FRAMES_EMITTED 0x040 (R34) -/
  framesEmitted : Word
  /-- SYNC_ERRORS 0x044 (R34) -/
  syncErrors : Word
  /-- MISMATCH_FRAMES 0x048 (R34) -/
  mismatchFrames : Word
  /-- RS_UNCORR_FRAMES 0x04C (R34) -/
  rsUncorrFrames : Word
  /-- LAST_VIT_BER 0x050 (R35) -/
  lastVitBer : Word
  /-- LAST_SCORE 0x054, two's complement (R36) -/
  lastScore : Word
  /-- LAST_TAG 0x05C (R38) -/
  lastTag : Word
  /-- SYMBOLS_IN 0x060 (R39) -/
  symbolsIn : Word
  /-- RS_CORR_TOTAL[0..7] 0x080 + 4b, eight entries (R40) -/
  rsCorrTotal : List Word
  /-- RS_CORR_LAST[0..7] 0x0A0 + 4b, eight entries (R41) -/
  rsCorrLast : List Word
  deriving DecidableEq, Repr

/-- The error state (10_state.md R44). -/
structure ErrorBits where
  /-- CFG_ERR -/
  cfgErr : Bool
  /-- CMD_ERR -/
  cmdErr : Bool
  /-- WR_ERR -/
  wrErr : Bool
  /-- ABORTED -/
  aborted : Bool
  /-- CFG_FAIL, 0 to 7 -/
  cfgFail : BitVec 3
  deriving DecidableEq, Repr

/-- The deframer's state (10_state.md R46, and `POS` of R47). -/
structure Deframer where
  /-- LOCK -/
  lock : Lock
  /-- PHASE -/
  phase : Phase
  /-- HYP, the held hypothesis index -/
  hyp : BitVec 3
  /-- GOOD, the count of consecutive matched checks (log 18) -/
  good : Nat
  /-- MISS, the count of consecutive failed checks (log 18) -/
  miss : Nat
  /-- FLAG: the frame being collected follows a tolerated mismatch -/
  flag : Bool
  /-- POS, the bit index of the window start -/
  pos : Nat
  deriving DecidableEq, Repr

/-- The whole state: everything 10_state.md gives the machine, and two fields of the model's own at the end. -/
structure State where
  /-- configuration registers (R22) -/
  cfg : CfgRegs
  /-- counters and last-value registers (R34 to R41) -/
  counters : Counters
  /-- error state (R44) -/
  errors : ErrorBits
  /-- RUN (R43) -/
  run : RunState
  /-- deframer state (R46, R47) -/
  deframer : Deframer
  /-- NV, the number of soft values accepted since START (R47) -/
  nv : Nat
  /-- AVAIL, the number of bits made available to the deframer since START (R47) -/
  avail : Nat
  /-- V, the soft values accepted since START, in order; the model keeps the whole list (R48; log 15) -/
  soft : List Soft
  /-- LASTBIT (R49) -/
  lastBit : Bool
  /-- PM, path metrics, held for `Config.pmStates` states (R50; log 14) -/
  pm : List Nat
  /-- Q, the output queue, head first (R51) -/
  queue : List Frame
  /-- TXPOS, bytes of the head frame already delivered (R51) -/
  txPos : Nat
  /-- the model's own: the value the last value-returning event gave (log 6) -/
  answer : Answer
  /-- the model's own: events offered and not yet accepted, in order (log 1) -/
  offers : List Offer
  deriving DecidableEq, Repr

/-- Why the machine stops with a fault: never. The block raises no exception and takes no trap (60_exceptions.md R300), so the
type has no constructor; safe. -/
inductive Fault
  deriving DecidableEq, Repr

/-- Why a step is refused. A refusal takes no step, so every reason is safe. -/
inductive Refusal
  /-- raised by an arm of `exec` whose instruction has no meaning yet; safe -/
  | notModelled (mnemonic : String)
  /-- raised by `step` when the decoder refuses the accepted offer's bytes (20_memory.md R66 for host accesses); safe -/
  | badEncoding (reason : DecodeError)
  /-- raised by READ and WRITE at an offset whose bits 1:0 are not zero: "a model refuses it (no step)" (20_memory.md R66);
  safe -/
  | misalignedAccess
  deriving DecidableEq, Repr

/-- The configuration registers' reset values (10_state.md R22). -/
def cfgReset : CfgRegs :=
  { mode := 0x00001144, syncLen := 0x00000020, syncWordLo := 0x1ACFFC1D, syncWordHi := 0x00000000,
    frameBits := 0x00002000, acqThresh := 0x0000001E, chkThresh := 0x0000001C, lockCfg := 0x00000302,
    vitCfg := 0x008B6797 }

/-- Every counter and last-value register at 0 (10_state.md R22, R34 to R41). -/
def countersReset : Counters :=
  { framesEmitted := 0, syncErrors := 0, mismatchFrames := 0, rsUncorrFrames := 0, lastVitBer := 0, lastScore := 0,
    lastTag := 0, symbolsIn := 0, rsCorrTotal := List.replicate 8 0, rsCorrLast := List.replicate 8 0 }

/-- Every error bit and `CFG_FAIL` at 0 (10_state.md R44). -/
def errorsReset : ErrorBits :=
  { cfgErr := false, cmdErr := false, wrErr := false, aborted := false, cfgFail := 0 }

/-- The deframer at reset (10_state.md R46, R47). -/
def deframerReset : Deframer :=
  { lock := .noSync, phase := .search, hyp := 0, good := 0, miss := 0, flag := false, pos := 0 }

/-- Path metrics all 0 (10_state.md R50). -/
def pmReset : List Nat := List.replicate Config.pmStates 0

/-- The machine right after a hardware reset (70_reset_and_hazards.md R330; 10_state.md R54). The last two fields are the
model's own (log 2, 6). -/
def State.reset : State :=
  { cfg := cfgReset
    counters := countersReset
    errors := errorsReset
    run := .idle
    deframer := deframerReset
    nv := 0
    avail := 0
    soft := []
    lastBit := false
    pm := pmReset
    queue := []
    txPos := 0
    answer := .none
    offers := [] }

end Sys2Proof.Machine
end

