-- ==== Sys2Proof/Machine/Operands.lean ====
section
/-! DEFINITION. The operand forms of the rules: register fields, the marker, the register map, and the primitives on soft values
(00_scope.md R12, 30_encoding.md R80, R81). -/

namespace Sys2Proof.Machine

/-! ## Primitives (00_scope.md R12) -/

/-- `field(R, hi, lo)` with `width = hi - lo + 1`, an unsigned number (00_scope.md R11, R12; 30_encoding.md R81). -/
def field (w : Word) (lo width : Nat) : Nat := w.toNat / 2 ^ lo % 2 ^ width

/-- Bit `i` of a register word (00_scope.md R11). -/
def bitOf (w : Word) (i : Nat) : Bool := w.getLsbD i

/-- `inv8(s) = -s - 1`: all eight bits flipped (00_scope.md R12). -/
def inv8 (s : Soft) : Soft := ~~~s

/-- `hard(s)`: 1 iff `s ≥ 0`, the complement of the sign bit (00_scope.md R12). -/
def hard (s : Soft) : Bool := !s.msb

/-- `inv8` where a bit is 1, the value itself where it is 0. -/
def invIf (b : Bool) (s : Soft) : Soft := if b then inv8 s else s

/-- `parity(v)`: the XOR of all bits of `v` (00_scope.md R12). -/
def parity (v : Nat) : Bool :=
  (List.range (Nat.log2 v + 1)).foldl (fun acc i => acc ^^ v.testBit i) false

/-- The byte whose bits, first bit most significant, are given (20_memory.md R64). -/
def byteOfBits (bits : List Bool) : Byte :=
  BitVec.ofNat 8 (bits.foldl (fun acc b => 2 * acc + b.toNat) 0)

/-- Bits packed into bytes, the first bit of each eight most significant (20_memory.md R64). -/
def packBits : List Bool → List Byte
  | b0 :: b1 :: b2 :: b3 :: b4 :: b5 :: b6 :: b7 :: rest =>
    byteOfBits [b0, b1, b2, b3, b4, b5, b6, b7] :: packBits rest
  | _ => []

/-! ## Register fields (10_state.md R26 to R33) -/

/-- `MODE.MOD = 1`, QPSK (R26). -/
def isQpsk (c : CfgRegs) : Bool := bitOf c.mode 0

/-- `MODE.CORR_SOFT` (R26). -/
def corrSoft (c : CfgRegs) : Bool := bitOf c.mode 1

/-- `MODE.DERAND_EN` (R26). -/
def derandEn (c : CfgRegs) : Bool := bitOf c.mode 2

/-- `MODE.DIFF_MODE` (R26). -/
def diffMode (c : CfgRegs) : Nat := field c.mode 3 2

/-- `MODE.VIT_EN` (R26). -/
def vitEn (c : CfgRegs) : Bool := bitOf c.mode 5

/-- `MODE.RS_EN` (R26). -/
def rsEn (c : CfgRegs) : Bool := bitOf c.mode 6

/-- `MODE.RS_PROFILE` (R26): false is RS(255,223), true RS(255,239). -/
def rsProfile (c : CfgRegs) : Bool := bitOf c.mode 7

/-- `MODE.RS_DUAL` (R26). -/
def rsDual (c : CfgRegs) : Bool := bitOf c.mode 8

/-- `MODE.RS_KEEP_PARITY` (R26). -/
def rsKeepParity (c : CfgRegs) : Bool := bitOf c.mode 9

/-- `MODE.RS_I`, the interleave depth `I` (R26). -/
def rsDepth (c : CfgRegs) : Nat := field c.mode 10 4

/-- `L = SYNC_LEN[6:0]`, the marker length in bits (R27). -/
def markerLen (c : CfgRegs) : Nat := field c.syncLen 0 7

/-- `SW = SYNC_WORD_HI · 2^32 + SYNC_WORD_LO` (R28; 30_encoding.md R81). -/
def syncWord (c : CfgRegs) : Nat := c.syncWordHi.toNat * 2 ^ 32 + c.syncWordLo.toNat

/-- The marker bit `M[i] = SW[L - 1 - i]`, `M[0]` the first in time (R28; 20_memory.md R63). -/
def markerBit (c : CfgRegs) (i : Nat) : Bool := (syncWord c).testBit (markerLen c - 1 - i)

/-- `F = FRAME_BITS`, the frame period in bits (R29). -/
def framePeriod (c : CfgRegs) : Nat := c.frameBits.toNat

/-- `P = F - L`, the payload length in bits (42_deframer.md R150); used where `L < F`. -/
def payloadLen (c : CfgRegs) : Nat := framePeriod c - markerLen c

/-- `T_ACQ`, signed (R30). -/
def acqThreshold (c : CfgRegs) : Int := c.acqThresh.toInt

/-- `T_CHK`, signed (R31). -/
def chkThreshold (c : CfgRegs) : Int := c.chkThresh.toInt

/-- `GOOD_TO_LOCK` (R32). -/
def goodToLock (c : CfgRegs) : Nat := field c.lockCfg 0 8

/-- `LOSS_THRESH` (R32). -/
def lossThresh (c : CfgRegs) : Nat := field c.lockCfg 8 8

/-- The convolutional code's parameters (R33). -/
structure VitCode where
  /-- constraint length -/
  k : Nat
  /-- first generator polynomial -/
  g1 : Nat
  /-- second generator polynomial -/
  g2 : Nat
  /-- first code symbol transmitted inverted -/
  inv1 : Bool
  /-- second code symbol transmitted inverted -/
  inv2 : Bool
  deriving DecidableEq, Repr

/-- The code that `VIT_CFG` gives (R33). -/
def vitCode (c : CfgRegs) : VitCode :=
  { k := field c.vitCfg 0 4, g1 := field c.vitCfg 4 9, g2 := field c.vitCfg 13 9,
    inv1 := bitOf c.vitCfg 22, inv2 := bitOf c.vitCfg 23 }

/-- `B_in`, the bytes of a frame before Reed-Solomon decoding (30_encoding.md R88). -/
def bytesIn (c : CfgRegs) : Nat := if vitEn c then payloadLen c / 16 else payloadLen c / 8

/-- `E`, the correction capability of a profile: 16 for RS(255,223), 8 for RS(255,239) (45_reed_solomon.md R222). -/
def rsCapability (profile : Bool) : Nat := if profile then 8 else 16

/-- `k = 255 - 2E`, the data symbols of a profile (45_reed_solomon.md R222). -/
def rsDataLen (profile : Bool) : Nat := 255 - 2 * rsCapability profile

/-- `B_out`, the length of every output frame of a run (30_encoding.md R88). -/
def bytesOut (c : CfgRegs) : Nat :=
  if rsEn c then (if rsKeepParity c then 255 * rsDepth c else rsDataLen (rsProfile c) * rsDepth c) else bytesIn c

/-! ## The register map (10_state.md R22; 30_encoding.md R80) -/

/-- The registers of the host window. -/
inductive Reg
  | id | version | cmd | status
  | mode | syncLen | syncWordLo | syncWordHi | frameBits | acqThresh | chkThresh | lockCfg | vitCfg
  | framesEmitted | syncErrors | mismatchFrames | rsUncorrFrames | lastVitBer | lastScore | hyp | lastTag | symbolsIn
  | rsCorrTotal (b : Nat) | rsCorrLast (b : Nat)
  | caps | maxFrameBits | queueCount
  deriving DecidableEq, Repr

/-- The register at a byte offset, none where the offset is reserved (10_state.md R21, R22). For offsets 0x080 to 0x0BF the
branch is `off[4:2]` (30_encoding.md R80). -/
def regAt (off : BitVec 12) : Option Reg :=
  match off.toNat with
  | 0x000 => some .id
  | 0x004 => some .version
  | 0x008 => some .cmd
  | 0x00C => some .status
  | 0x010 => some .mode
  | 0x014 => some .syncLen
  | 0x018 => some .syncWordLo
  | 0x01C => some .syncWordHi
  | 0x020 => some .frameBits
  | 0x024 => some .acqThresh
  | 0x028 => some .chkThresh
  | 0x02C => some .lockCfg
  | 0x030 => some .vitCfg
  | 0x040 => some .framesEmitted
  | 0x044 => some .syncErrors
  | 0x048 => some .mismatchFrames
  | 0x04C => some .rsUncorrFrames
  | 0x050 => some .lastVitBer
  | 0x054 => some .lastScore
  | 0x058 => some .hyp
  | 0x05C => some .lastTag
  | 0x060 => some .symbolsIn
  | 0x0C0 => some .caps
  | 0x0C4 => some .maxFrameBits
  | 0x0C8 => some .queueCount
  | o =>
    if o % 4 ≠ 0 then none
    else if 0x080 ≤ o ∧ o < 0x0A0 then some (.rsCorrTotal ((o - 0x080) / 4))
    else if 0x0A0 ≤ o ∧ o < 0x0C0 then some (.rsCorrLast ((o - 0x0A0) / 4))
    else none

/-- Access class of a register (10_state.md R21). -/
inductive Access
  | ro | wo | rwi
  deriving DecidableEq, Repr

/-- The access column of the register map (10_state.md R22). -/
def accessOf : Reg → Access
  | .cmd => .wo
  | .mode => .rwi
  | .syncLen => .rwi
  | .syncWordLo => .rwi
  | .syncWordHi => .rwi
  | .frameBits => .rwi
  | .acqThresh => .rwi
  | .chkThresh => .rwi
  | .lockCfg => .rwi
  | .vitCfg => .rwi
  | _ => .ro

/-- `STORED_MASK` of a register (47_host_commands.md R271); 0 for a register that stores nothing. -/
def storedMask : Reg → Word
  | .mode => 0x00003FFF
  | .syncLen => 0x0000007F
  | .syncWordLo => 0xFFFFFFFF
  | .syncWordHi => 0xFFFFFFFF
  | .frameBits => 0xFFFFFFFF
  | .acqThresh => 0xFFFFFFFF
  | .chkThresh => 0xFFFFFFFF
  | .lockCfg => 0x0000FFFF
  | .vitCfg => 0x00FFFFFF
  | _ => 0

end Sys2Proof.Machine
end

