-- ==== Sys2Proof/Machine/Flags.lean ====
section
/-! DEFINITION. Every composed value: the port signals, `STATUS`, the `HYP` register view and the tag. -/

namespace Sys2Proof.Machine

/-! ## Port signals (40_streams.md R111, R117) -/

/-- `|Q| < P_OUT_CAP`. The capacity is at least 1 (00_scope.md R10), so an empty queue has room whatever it is. -/
def queueRoom (s : State) : Bool :=
  match s.queue with
  | [] => true
  | q => decide (q.length < Config.outCap)

/-- `in_ready` (R111). -/
def inReady (s : State) : Bool :=
  match s.run with
  | .idle => false
  | .running => queueRoom s
  | .stopped => true
  | .done => true

/-- `out_valid` (R117). -/
def outValid (s : State) : Bool := !s.queue.isEmpty

/-- `out_closed` (R117). -/
def outClosed (s : State) : Bool :=
  match s.run with
  | .idle => false
  | .running => false
  | .stopped => s.queue.isEmpty
  | .done => s.queue.isEmpty

/-- The presented beat of frame `f` when `txPos` of its bytes have been delivered (R117). -/
def beatOf (f : Frame) (txPos : Nat) : OutBeat :=
  let eof := decide (txPos + 1 = f.bytes.length)
  { data := f.bytes.getD txPos (Config.beyondByte txPos)
    sof := decide (txPos = 0)
    eof := eof
    tag := if eof then f.tag else 0 }

/-- The beat the output port presents, none while `out_valid = 0` (R117). -/
def outBeat (s : State) : Option OutBeat :=
  match s.queue with
  | [] => none
  | f :: _ => some (beatOf f s.txPos)

/-! ## Register views -/

/-- `STATUS.LOCK` (10_state.md R25). -/
def lockCode : Lock → Nat
  | .noSync => 0
  | .syncing => 1
  | .synced => 2

/-- `STATUS.RUN` (10_state.md R25). -/
def runCode : RunState → Nat
  | .idle => 0
  | .running => 1
  | .stopped => 2
  | .done => 3

/-- `STATUS`, composed at the moment of the read (10_state.md R25). The fields do not overlap, so their sum is their union;
`GOOD` and `MISS` fill eight bits each (log 18). -/
def statusWord (s : State) : Word :=
  BitVec.ofNat 32
    (lockCode s.deframer.lock
      + runCode s.run * 2 ^ 2
      + s.errors.cfgErr.toNat * 2 ^ 4
      + s.errors.cmdErr.toNat * 2 ^ 5
      + s.errors.wrErr.toNat * 2 ^ 6
      + (outClosed s).toNat * 2 ^ 7
      + s.errors.aborted.toNat * 2 ^ 8
      + (inReady s).toNat * 2 ^ 9
      + s.errors.cfgFail.toNat * 2 ^ 12
      + s.deframer.good % 2 ^ 8 * 2 ^ 16
      + s.deframer.miss % 2 ^ 8 * 2 ^ 24)

/-- The `HYP` register's view of a hypothesis index: INDEX in 2:0, PHASE `(INDEX[1] + 2·INDEX[0]) mod 4` in 4:3, SWAP in 5,
INVERTED in 6 (10_state.md R37). -/
def hypWord (h : BitVec 3) : Word :=
  let inv := (h.getLsbD 0).toNat
  let rot := (h.getLsbD 1).toNat
  let swap := (h.getLsbD 2).toNat
  BitVec.ofNat 32 (h.toNat + (rot + 2 * inv) % 4 * 2 ^ 3 + swap * 2 ^ 5 + inv * 2 ^ 6)

/-! ## The tag (30_encoding.md R89; 46_frame_chain.md R254) -/

/-- `Σ_b uncorr[b] · 2^b` (R254). -/
def uncorrMask : List Bool → Nat
  | [] => 0
  | u :: rest => u.toNat + 2 * uncorrMask rest

/-- `MAKE_TAG(flag, lock, uncorr, ber)` (R254). `uncorr` is empty when `RS_EN = 0` and `ber` is 0 when `VIT_EN = 0`
(R250), and a frame has at most eight branches. No frame is emitted in `NO_SYNC`; its LOCK field would be 0 (log 24). -/
def makeTag (c : CfgRegs) (flag : Bool) (lock : Lock) (uncorr : List Bool) (ber : Nat) : Word :=
  BitVec.ofNat 32
    (flag.toNat
      + (rsEn c && uncorr.any id).toNat * 2 ^ 1
      + (rsEn c).toNat * 2 ^ 2
      + (vitEn c).toNat * 2 ^ 3
      + lockCode lock * 2 ^ 4
      + (if rsEn c then uncorrMask uncorr % 2 ^ 8 * 2 ^ 8 else 0)
      + (if vitEn c then min ber 0xFFFF * 2 ^ 16 else 0))

end Sys2Proof.Machine
end

