-- ==== Sys2Proof/Machine/Ops.lean ====
section
/-! DEFINITION. The named operations the meanings share: status bits (the block's only exception mechanism), the register file,
the output queue, and the resets. -/

namespace Sys2Proof.Machine

/-! ## Errors: in place of exception entry and return (60_exceptions.md R300, R301, R306) -/

/-- `raise Status(bit)`: set one sticky status bit and change nothing else (00_scope.md R12; 60_exceptions.md R306). The block
saves no state, changes no mode and goes to no handler (R300). -/
def raiseStatus (b : StatusBit) (s : State) : State :=
  match b with
  | .cfgErr => { s with errors := { s.errors with cfgErr := true } }
  | .cmdErr => { s with errors := { s.errors with cmdErr := true } }
  | .wrErr => { s with errors := { s.errors with wrErr := true } }
  | .aborted => { s with errors := { s.errors with aborted := true } }

/-- A failing `START`: `CFG_ERR` set and `CFG_FAIL` overwritten with the cause (60_exceptions.md R301, R306). -/
def raiseCfgFail (code : BitVec 3) (s : State) : State :=
  { raiseStatus .cfgErr s with errors := { (raiseStatus .cfgErr s).errors with cfgFail := code } }

/-- In place of exception return: every error bit and `CFG_FAIL` cleared, nothing else changed (47_host_commands.md R277;
60_exceptions.md R306). -/
def clearErrorBits (s : State) : State := { s with errors := errorsReset }

/-- The value a value-returning event gives at its port (log 6). -/
def withAnswer (a : Answer) (s : State) : State := { s with answer := a }

/-! ## The register file (10_state.md R21 to R42) -/

/-- The value of a register (10_state.md R23 to R42; 47_host_commands.md R270): `CMD` reads 0. -/
def regValue (s : State) : Reg → Word
  | .id => Config.idValue
  | .version => Config.versionValue
  | .cmd => 0
  | .status => statusWord s
  | .mode => s.cfg.mode
  | .syncLen => s.cfg.syncLen
  | .syncWordLo => s.cfg.syncWordLo
  | .syncWordHi => s.cfg.syncWordHi
  | .frameBits => s.cfg.frameBits
  | .acqThresh => s.cfg.acqThresh
  | .chkThresh => s.cfg.chkThresh
  | .lockCfg => s.cfg.lockCfg
  | .vitCfg => s.cfg.vitCfg
  | .framesEmitted => s.counters.framesEmitted
  | .syncErrors => s.counters.syncErrors
  | .mismatchFrames => s.counters.mismatchFrames
  | .rsUncorrFrames => s.counters.rsUncorrFrames
  | .lastVitBer => s.counters.lastVitBer
  | .lastScore => s.counters.lastScore
  | .hyp => hypWord s.deframer.hyp
  | .lastTag => s.counters.lastTag
  | .symbolsIn => s.counters.symbolsIn
  | .rsCorrTotal b => s.counters.rsCorrTotal.getD b 0
  | .rsCorrLast b => s.counters.rsCorrLast.getD b 0
  | .caps => BitVec.ofNat 32 Config.outCap
  | .maxFrameBits => BitVec.ofNat 32 Config.maxFrameBits
  | .queueCount => BitVec.ofNat 32 s.queue.length

/-- `READ(off)`: the register's value, 0 at a reserved offset (47_host_commands.md R270; 10_state.md R21). -/
def readWord (s : State) (off : BitVec 12) : Word :=
  match regAt off with
  | some r => regValue s r
  | none => 0

/-- A configuration register's new contents; the other registers are not RWI and keep theirs (10_state.md R21, R22). -/
def setCfgReg (c : CfgRegs) (r : Reg) (v : Word) : CfgRegs :=
  match r with
  | .mode => { c with mode := v }
  | .syncLen => { c with syncLen := v }
  | .syncWordLo => { c with syncWordLo := v }
  | .syncWordHi => { c with syncWordHi := v }
  | .frameBits => { c with frameBits := v }
  | .acqThresh => { c with acqThresh := v }
  | .chkThresh => { c with chkThresh := v }
  | .lockCfg => { c with lockCfg := v }
  | .vitCfg => { c with vitCfg := v }
  | _ => c

/-- A write to an RWI register: stored under its mask in `IDLE`, ignored with `WR_ERR` in any other run state
(47_host_commands.md R271). -/
def writeCfg (r : Reg) (v : Word) (s : State) : State :=
  if s.run = .idle then { s with cfg := setCfgReg s.cfg r (v &&& storedMask r) } else raiseStatus .wrErr s

/-! ## Counters (46_frame_chain.md R255; 42_deframer.md R161, R162) -/

/-- `LAST_SCORE <- x`, as a 32-bit two's-complement value (42_deframer.md R162). -/
def setLastScore (x : Int) (s : State) : State :=
  { s with counters := { s.counters with lastScore := BitVec.ofInt 32 x } }

/-- `SYNC_ERRORS <- SYNC_ERRORS + 1` modulo 2^32 (42_deframer.md R161). -/
def countSyncError (s : State) : State :=
  { s with counters := { s.counters with syncErrors := s.counters.syncErrors + 1 } }

/-! ## The output queue (10_state.md R51; 46_frame_chain.md R256; 40_streams.md R118) -/

/-- `Q.push(f)`: append at the tail (46_frame_chain.md R256). -/
def pushFrame (f : Frame) (s : State) : State := { s with queue := s.queue ++ [f] }

/-- `Q <- empty ; TXPOS <- 0` (47_host_commands.md R272, R273). -/
def dropQueue (s : State) : State := { s with queue := [], txPos := 0 }

/-- One beat of the head frame is delivered: after its last byte the frame leaves the queue (40_streams.md R118). -/
def deliverBeat (b : OutBeat) (s : State) : State :=
  if b.eof then { s with queue := s.queue.tail, txPos := 0 } else { s with txPos := s.txPos + 1 }

/-! ## Path metrics and resets (44_viterbi.md R207; 70_reset_and_hazards.md R330, R332) -/

/-- `PM[s] <- 0` for every state (44_viterbi.md R207). -/
def clearMetrics (s : State) : State := { s with pm := pmReset }

/-- What a successful `START` writes (47_host_commands.md R272). -/
def startRun (s : State) : State :=
  { s with
    run := .running
    nv := 0
    avail := 0
    soft := []
    deframer := deframerReset
    lastBit := false
    pm := pmReset
    queue := []
    txPos := 0
    counters := { s.counters with symbolsIn := 0 } }

/-- `SOFT_RESET`: everything to its reset value except the nine configuration registers (47_host_commands.md R274;
70_reset_and_hazards.md R332). The model's own fields are no state of the block and stay. -/
def softResetState (s : State) : State :=
  { State.reset with cfg := s.cfg, answer := s.answer, offers := s.offers }

/-- A hardware reset: every register and internal element to its reset value (70_reset_and_hazards.md R330). Offers not yet
accepted stay with their agents (R331: a beat offered during reset is not accepted; log 19). -/
def hardReset (s : State) : State := { State.reset with offers := s.offers }

end Sys2Proof.Machine
end

