-- ==== Sys2Proof/Machine/Correlator.lean ====
section
/-! DEFINITION. The correlator: hypotheses, corrected values, scores and the best hypothesis (41_correlator.md). A pure function of
the configuration, the soft history, a window start and the held hypothesis (R130). -/

namespace Sys2Proof.Machine

/-! ## Corrected values -/

/-- `V[j]` for an accepted value; a free value where none has been accepted (10_state.md R48; log 10). -/
def softAt (v : List Soft) (j : Nat) : Soft := v.getD j (Config.beyondSoft j)

/-- SWAP of `T_h` (R131). -/
def swapIQ (iq : Soft × Soft) : Soft × Soft := (iq.2, iq.1)

/-- ROT of `T_h`: multiply by j (R131). -/
def rotIQ (iq : Soft × Soft) : Soft × Soft := (inv8 iq.2, iq.1)

/-- INV of `T_h`: 180° (R131). -/
def negIQ (iq : Soft × Soft) : Soft × Soft := (inv8 iq.1, inv8 iq.2)

/-- The symbol transform `T_h(I, Q)`: SWAP, then ROT, then INV (R131). -/
def transform (h : BitVec 3) (iq : Soft × Soft) : Soft × Soft :=
  let a := if h.getLsbD 2 then swapIQ iq else iq
  let b := if h.getLsbD 1 then rotIQ a else a
  if h.getLsbD 0 then negIQ b else b

/-- `u_h[n]` in BPSK, `inv = h[0]` (R132). -/
def correctedBpsk (v : List Soft) (inv : Bool) (n : Nat) : Soft := invIf inv (softAt v n)

/-- `u_h[n]` in QPSK: symbols are paired by absolute index (R133). -/
def correctedQpsk (v : List Soft) (h : BitVec 3) (n : Nat) : Soft :=
  let iq := transform h (softAt v (2 * (n / 2)), softAt v (2 * (n / 2) + 1))
  if n % 2 = 0 then iq.1 else iq.2

/-- `u_h[n]` as `MODE.MOD` selects (R132, R133). In BPSK only `h[0]` enters (log 23). -/
def corrected (c : CfgRegs) (v : List Soft) (h : BitVec 3) (n : Nat) : Soft :=
  if isQpsk c then correctedQpsk v h n else correctedBpsk v (h.getLsbD 0) n

/-! ## Scores -/

/-- The hard score: agreeing hard decisions over the `L`-bit window at `n` (R135). -/
def hardScore (c : CfgRegs) (v : List Soft) (h : BitVec 3) (n : Nat) : Int :=
  ((List.range (markerLen c)).map fun i => if hard (corrected c v h (n + i)) = markerBit c i then (1 : Int) else 0).sum

/-- The soft score: `u` where the marker bit is 1, `inv8(u)` where it is 0, summed exactly (R136). -/
def softScore (c : CfgRegs) (v : List Soft) (h : BitVec 3) (n : Nat) : Int :=
  ((List.range (markerLen c)).map fun i => (invIf (!markerBit c i) (corrected c v h (n + i))).toInt).sum

/-- `score_h(n)` as `MODE.CORR_SOFT` selects (30_encoding.md R91). -/
def score (c : CfgRegs) (v : List Soft) (h : BitVec 3) (n : Nat) : Int :=
  if corrSoft c then softScore c v h n else hardScore c v h n

/-! ## The correlation operation (R137) -/

/-- The hypothesis set `H`: indices 0 and 1 in BPSK, 0 to 7 in QPSK, ascending (R137; 30_encoding.md R90). -/
def hypotheses (c : CfgRegs) : List (BitVec 3) := if isQpsk c then [0, 1, 2, 3, 4, 5, 6, 7] else [0, 1]

/-- The greatest of a non-empty list of scores. -/
def maxScore : List Int → Int
  | [] => 0
  | x :: xs => xs.foldl max x

/-- `max over h in H of score_h(n)` (R137). -/
def bestScore (c : CfgRegs) (v : List Soft) (n : Nat) : Int := maxScore ((hypotheses c).map fun h => score c v h n)

/-- `h*`: the held hypothesis if it attains the best score, else the smallest that does (R137). -/
def bestHypothesis (c : CfgRegs) (v : List Soft) (held : BitVec 3) (n : Nat) : BitVec 3 :=
  if held ∈ hypotheses c ∧ score c v held n = bestScore c v n then held
  else ((hypotheses c).find? fun h => decide (score c v h n = bestScore c v n)).getD 0

/-! ## Meanings -/

/-- `HYP_BPSK` (R132): the corrected value of bit `n`. -/
def execHypBpsk (n : Nat) (h : BitVec 1) (s : State) : Host.Outcome State Fault Refusal :=
  .next (withAnswer (.soft (correctedBpsk s.soft (h.getLsbD 0) n)) s)

/-- `HYP_QPSK` (R133): the corrected value of bit `n`. -/
def execHypQpsk (n : Nat) (h : BitVec 3) (s : State) : Host.Outcome State Fault Refusal :=
  .next (withAnswer (.soft (correctedQpsk s.soft h n)) s)

/-- `SCORE_HARD` (R135): the agreement count of the window at `n`. -/
def execScoreHard (n : Nat) (h : BitVec 3) (s : State) : Host.Outcome State Fault Refusal :=
  .next (withAnswer (.score (hardScore s.cfg s.soft h n)) s)

/-- `SCORE_SOFT` (R136): the soft correlation of the window at `n`. -/
def execScoreSoft (n : Nat) (h : BitVec 3) (s : State) : Host.Outcome State Fault Refusal :=
  .next (withAnswer (.score (softScore s.cfg s.soft h n)) s)

/-- `CORRELATE` (R137): best hypothesis and best score at `n`, under the held hypothesis. -/
def execCorrelate (n : Nat) (s : State) : Host.Outcome State Fault Refusal :=
  .next (withAnswer (.best (bestHypothesis s.cfg s.soft s.deframer.hyp n) (bestScore s.cfg s.soft n)) s)

end Sys2Proof.Machine
end

