-- ==== Sys2Proof/Machine/Tables.lean ====
section
/-! DEFINITION. The constant tables of the block (10_state.md R53): they exist from reset and never change. The text's rows are
the spec's rows; Tests check them against the rules that generate them. -/

namespace Sys2Proof.Machine

/-- The pseudo-noise table `PN[0..254]` (43_descrambler.md R181). -/
def pnTable : List Byte :=
  List.flatten [
    [0xFF, 0x48, 0x0E, 0xC0, 0x9A, 0x0D, 0x70, 0xBC, 0x8E, 0x2C, 0x93, 0xAD, 0xA7, 0xB7, 0x46, 0xCE],
    [0x5A, 0x97, 0x7D, 0xCC, 0x32, 0xA2, 0xBF, 0x3E, 0x0A, 0x10, 0xF1, 0x88, 0x94, 0xCD, 0xEA, 0xB1],
    [0xFE, 0x90, 0x1D, 0x81, 0x34, 0x1A, 0xE1, 0x79, 0x1C, 0x59, 0x27, 0x5B, 0x4F, 0x6E, 0x8D, 0x9C],
    [0xB5, 0x2E, 0xFB, 0x98, 0x65, 0x45, 0x7E, 0x7C, 0x14, 0x21, 0xE3, 0x11, 0x29, 0x9B, 0xD5, 0x63],
    [0xFD, 0x20, 0x3B, 0x02, 0x68, 0x35, 0xC2, 0xF2, 0x38, 0xB2, 0x4E, 0xB6, 0x9E, 0xDD, 0x1B, 0x39],
    [0x6A, 0x5D, 0xF7, 0x30, 0xCA, 0x8A, 0xFC, 0xF8, 0x28, 0x43, 0xC6, 0x22, 0x53, 0x37, 0xAA, 0xC7],
    [0xFA, 0x40, 0x76, 0x04, 0xD0, 0x6B, 0x85, 0xE4, 0x71, 0x64, 0x9D, 0x6D, 0x3D, 0xBA, 0x36, 0x72],
    [0xD4, 0xBB, 0xEE, 0x61, 0x95, 0x15, 0xF9, 0xF0, 0x50, 0x87, 0x8C, 0x44, 0xA6, 0x6F, 0x55, 0x8F],
    [0xF4, 0x80, 0xEC, 0x09, 0xA0, 0xD7, 0x0B, 0xC8, 0xE2, 0xC9, 0x3A, 0xDA, 0x7B, 0x74, 0x6C, 0xE5],
    [0xA9, 0x77, 0xDC, 0xC3, 0x2A, 0x2B, 0xF3, 0xE0, 0xA1, 0x0F, 0x18, 0x89, 0x4C, 0xDE, 0xAB, 0x1F],
    [0xE9, 0x01, 0xD8, 0x13, 0x41, 0xAE, 0x17, 0x91, 0xC5, 0x92, 0x75, 0xB4, 0xF6, 0xE8, 0xD9, 0xCB],
    [0x52, 0xEF, 0xB9, 0x86, 0x54, 0x57, 0xE7, 0xC1, 0x42, 0x1E, 0x31, 0x12, 0x99, 0xBD, 0x56, 0x3F],
    [0xD2, 0x03, 0xB0, 0x26, 0x83, 0x5C, 0x2F, 0x23, 0x8B, 0x24, 0xEB, 0x69, 0xED, 0xD1, 0xB3, 0x96],
    [0xA5, 0xDF, 0x73, 0x0C, 0xA8, 0xAF, 0xCF, 0x82, 0x84, 0x3C, 0x62, 0x25, 0x33, 0x7A, 0xAC, 0x7F],
    [0xA4, 0x07, 0x60, 0x4D, 0x06, 0xB8, 0x5E, 0x47, 0x16, 0x49, 0xD6, 0xD3, 0xDB, 0xA3, 0x67, 0x2D],
    [0x4B, 0xBE, 0xE6, 0x19, 0x51, 0x5F, 0x9F, 0x05, 0x08, 0x78, 0xC4, 0x4A, 0x66, 0xF5, 0x58]]

/-- The exponent table `EXP[0..254]` of GF(256) (45_reed_solomon.md R221). -/
def expTable : List Byte :=
  List.flatten [
    [0x01, 0x02, 0x04, 0x08, 0x10, 0x20, 0x40, 0x80, 0x87, 0x89, 0x95, 0xAD, 0xDD, 0x3D, 0x7A, 0xF4],
    [0x6F, 0xDE, 0x3B, 0x76, 0xEC, 0x5F, 0xBE, 0xFB, 0x71, 0xE2, 0x43, 0x86, 0x8B, 0x91, 0xA5, 0xCD],
    [0x1D, 0x3A, 0x74, 0xE8, 0x57, 0xAE, 0xDB, 0x31, 0x62, 0xC4, 0x0F, 0x1E, 0x3C, 0x78, 0xF0, 0x67],
    [0xCE, 0x1B, 0x36, 0x6C, 0xD8, 0x37, 0x6E, 0xDC, 0x3F, 0x7E, 0xFC, 0x7F, 0xFE, 0x7B, 0xF6, 0x6B],
    [0xD6, 0x2B, 0x56, 0xAC, 0xDF, 0x39, 0x72, 0xE4, 0x4F, 0x9E, 0xBB, 0xF1, 0x65, 0xCA, 0x13, 0x26],
    [0x4C, 0x98, 0xB7, 0xE9, 0x55, 0xAA, 0xD3, 0x21, 0x42, 0x84, 0x8F, 0x99, 0xB5, 0xED, 0x5D, 0xBA],
    [0xF3, 0x61, 0xC2, 0x03, 0x06, 0x0C, 0x18, 0x30, 0x60, 0xC0, 0x07, 0x0E, 0x1C, 0x38, 0x70, 0xE0],
    [0x47, 0x8E, 0x9B, 0xB1, 0xE5, 0x4D, 0x9A, 0xB3, 0xE1, 0x45, 0x8A, 0x93, 0xA1, 0xC5, 0x0D, 0x1A],
    [0x34, 0x68, 0xD0, 0x27, 0x4E, 0x9C, 0xBF, 0xF9, 0x75, 0xEA, 0x53, 0xA6, 0xCB, 0x11, 0x22, 0x44],
    [0x88, 0x97, 0xA9, 0xD5, 0x2D, 0x5A, 0xB4, 0xEF, 0x59, 0xB2, 0xE3, 0x41, 0x82, 0x83, 0x81, 0x85],
    [0x8D, 0x9D, 0xBD, 0xFD, 0x7D, 0xFA, 0x73, 0xE6, 0x4B, 0x96, 0xAB, 0xD1, 0x25, 0x4A, 0x94, 0xAF],
    [0xD9, 0x35, 0x6A, 0xD4, 0x2F, 0x5E, 0xBC, 0xFF, 0x79, 0xF2, 0x63, 0xC6, 0x0B, 0x16, 0x2C, 0x58],
    [0xB0, 0xE7, 0x49, 0x92, 0xA3, 0xC1, 0x05, 0x0A, 0x14, 0x28, 0x50, 0xA0, 0xC7, 0x09, 0x12, 0x24],
    [0x48, 0x90, 0xA7, 0xC9, 0x15, 0x2A, 0x54, 0xA8, 0xD7, 0x29, 0x52, 0xA4, 0xCF, 0x19, 0x32, 0x64],
    [0xC8, 0x17, 0x2E, 0x5C, 0xB8, 0xF7, 0x69, 0xD2, 0x23, 0x46, 0x8C, 0x9F, 0xB9, 0xF5, 0x6D, 0xDA],
    [0x33, 0x66, 0xCC, 0x1F, 0x3E, 0x7C, 0xF8, 0x77, 0xEE, 0x5B, 0xB6, 0xEB, 0x51, 0xA2, 0xC3]]

/-- The table `TALTAB[0..255]` (45_reed_solomon.md R225). -/
def talTable : List Byte :=
  List.flatten [
    [0x00, 0x7B, 0xAF, 0xD4, 0x99, 0xE2, 0x36, 0x4D, 0xFA, 0x81, 0x55, 0x2E, 0x63, 0x18, 0xCC, 0xB7],
    [0x86, 0xFD, 0x29, 0x52, 0x1F, 0x64, 0xB0, 0xCB, 0x7C, 0x07, 0xD3, 0xA8, 0xE5, 0x9E, 0x4A, 0x31],
    [0xEC, 0x97, 0x43, 0x38, 0x75, 0x0E, 0xDA, 0xA1, 0x16, 0x6D, 0xB9, 0xC2, 0x8F, 0xF4, 0x20, 0x5B],
    [0x6A, 0x11, 0xC5, 0xBE, 0xF3, 0x88, 0x5C, 0x27, 0x90, 0xEB, 0x3F, 0x44, 0x09, 0x72, 0xA6, 0xDD],
    [0xEF, 0x94, 0x40, 0x3B, 0x76, 0x0D, 0xD9, 0xA2, 0x15, 0x6E, 0xBA, 0xC1, 0x8C, 0xF7, 0x23, 0x58],
    [0x69, 0x12, 0xC6, 0xBD, 0xF0, 0x8B, 0x5F, 0x24, 0x93, 0xE8, 0x3C, 0x47, 0x0A, 0x71, 0xA5, 0xDE],
    [0x03, 0x78, 0xAC, 0xD7, 0x9A, 0xE1, 0x35, 0x4E, 0xF9, 0x82, 0x56, 0x2D, 0x60, 0x1B, 0xCF, 0xB4],
    [0x85, 0xFE, 0x2A, 0x51, 0x1C, 0x67, 0xB3, 0xC8, 0x7F, 0x04, 0xD0, 0xAB, 0xE6, 0x9D, 0x49, 0x32],
    [0x8D, 0xF6, 0x22, 0x59, 0x14, 0x6F, 0xBB, 0xC0, 0x77, 0x0C, 0xD8, 0xA3, 0xEE, 0x95, 0x41, 0x3A],
    [0x0B, 0x70, 0xA4, 0xDF, 0x92, 0xE9, 0x3D, 0x46, 0xF1, 0x8A, 0x5E, 0x25, 0x68, 0x13, 0xC7, 0xBC],
    [0x61, 0x1A, 0xCE, 0xB5, 0xF8, 0x83, 0x57, 0x2C, 0x9B, 0xE0, 0x34, 0x4F, 0x02, 0x79, 0xAD, 0xD6],
    [0xE7, 0x9C, 0x48, 0x33, 0x7E, 0x05, 0xD1, 0xAA, 0x1D, 0x66, 0xB2, 0xC9, 0x84, 0xFF, 0x2B, 0x50],
    [0x62, 0x19, 0xCD, 0xB6, 0xFB, 0x80, 0x54, 0x2F, 0x98, 0xE3, 0x37, 0x4C, 0x01, 0x7A, 0xAE, 0xD5],
    [0xE4, 0x9F, 0x4B, 0x30, 0x7D, 0x06, 0xD2, 0xA9, 0x1E, 0x65, 0xB1, 0xCA, 0x87, 0xFC, 0x28, 0x53],
    [0x8E, 0xF5, 0x21, 0x5A, 0x17, 0x6C, 0xB8, 0xC3, 0x74, 0x0F, 0xDB, 0xA0, 0xED, 0x96, 0x42, 0x39],
    [0x08, 0x73, 0xA7, 0xDC, 0x91, 0xEA, 0x3E, 0x45, 0xF2, 0x89, 0x5D, 0x26, 0x6B, 0x10, 0xC4, 0xBF]]

/-- The table `TAL1TAB[0..255]` (45_reed_solomon.md R226). -/
def tal1Table : List Byte :=
  List.flatten [
    [0x00, 0xCC, 0xAC, 0x60, 0x79, 0xB5, 0xD5, 0x19, 0xF0, 0x3C, 0x5C, 0x90, 0x89, 0x45, 0x25, 0xE9],
    [0xFD, 0x31, 0x51, 0x9D, 0x84, 0x48, 0x28, 0xE4, 0x0D, 0xC1, 0xA1, 0x6D, 0x74, 0xB8, 0xD8, 0x14],
    [0x2E, 0xE2, 0x82, 0x4E, 0x57, 0x9B, 0xFB, 0x37, 0xDE, 0x12, 0x72, 0xBE, 0xA7, 0x6B, 0x0B, 0xC7],
    [0xD3, 0x1F, 0x7F, 0xB3, 0xAA, 0x66, 0x06, 0xCA, 0x23, 0xEF, 0x8F, 0x43, 0x5A, 0x96, 0xF6, 0x3A],
    [0x42, 0x8E, 0xEE, 0x22, 0x3B, 0xF7, 0x97, 0x5B, 0xB2, 0x7E, 0x1E, 0xD2, 0xCB, 0x07, 0x67, 0xAB],
    [0xBF, 0x73, 0x13, 0xDF, 0xC6, 0x0A, 0x6A, 0xA6, 0x4F, 0x83, 0xE3, 0x2F, 0x36, 0xFA, 0x9A, 0x56],
    [0x6C, 0xA0, 0xC0, 0x0C, 0x15, 0xD9, 0xB9, 0x75, 0x9C, 0x50, 0x30, 0xFC, 0xE5, 0x29, 0x49, 0x85],
    [0x91, 0x5D, 0x3D, 0xF1, 0xE8, 0x24, 0x44, 0x88, 0x61, 0xAD, 0xCD, 0x01, 0x18, 0xD4, 0xB4, 0x78],
    [0xC5, 0x09, 0x69, 0xA5, 0xBC, 0x70, 0x10, 0xDC, 0x35, 0xF9, 0x99, 0x55, 0x4C, 0x80, 0xE0, 0x2C],
    [0x38, 0xF4, 0x94, 0x58, 0x41, 0x8D, 0xED, 0x21, 0xC8, 0x04, 0x64, 0xA8, 0xB1, 0x7D, 0x1D, 0xD1],
    [0xEB, 0x27, 0x47, 0x8B, 0x92, 0x5E, 0x3E, 0xF2, 0x1B, 0xD7, 0xB7, 0x7B, 0x62, 0xAE, 0xCE, 0x02],
    [0x16, 0xDA, 0xBA, 0x76, 0x6F, 0xA3, 0xC3, 0x0F, 0xE6, 0x2A, 0x4A, 0x86, 0x9F, 0x53, 0x33, 0xFF],
    [0x87, 0x4B, 0x2B, 0xE7, 0xFE, 0x32, 0x52, 0x9E, 0x77, 0xBB, 0xDB, 0x17, 0x0E, 0xC2, 0xA2, 0x6E],
    [0x7A, 0xB6, 0xD6, 0x1A, 0x03, 0xCF, 0xAF, 0x63, 0x8A, 0x46, 0x26, 0xEA, 0xF3, 0x3F, 0x5F, 0x93],
    [0xA9, 0x65, 0x05, 0xC9, 0xD0, 0x1C, 0x7C, 0xB0, 0x59, 0x95, 0xF5, 0x39, 0x20, 0xEC, 0x8C, 0x40],
    [0x54, 0x98, 0xF8, 0x34, 0x2D, 0xE1, 0x81, 0x4D, 0xA4, 0x68, 0x08, 0xC4, 0xDD, 0x11, 0x71, 0xBD]]

/-- `PN[k]` for `k` in `0..254` (43_descrambler.md R181). -/
def pnByte (k : Nat) : Byte := pnTable.getD k 0

/-- `EXP[i] = α^i` for `i` in `0..254` (45_reed_solomon.md R221). -/
def gexp (i : Nat) : Byte := expTable.getD i 0

/-- `LOG[a]` for `a ≠ 0`: the unique `i` in `0..254` with `EXP[i] = a` (45_reed_solomon.md R221). -/
def glog (a : Byte) : Nat := expTable.idxOf a

/-- `TALTAB`, conventional to dual basis (45_reed_solomon.md R224, R225). -/
def talTab (a : Byte) : Byte := talTable.getD a.toNat 0

/-- `TAL1TAB`, dual to conventional basis (45_reed_solomon.md R224, R226). -/
def tal1Tab (a : Byte) : Byte := tal1Table.getD a.toNat 0

end Sys2Proof.Machine
end

