-- ==== Sys2Proof/Machine/Descrambler.lean ====
section
/-! DEFINITION. The derandomizer and the NRZ-M and NRZ-S differential decoder (43_descrambler.md). -/

namespace Sys2Proof.Machine

/-- The pseudo-noise bit for payload bit `j`: `PN[(j div 8) mod 255]`, most significant bit first (R182). -/
def pnBit (j : Nat) : Bool := (pnByte (j / 8 % 255)).getMsbD (j % 8)

/-- `DERAND` on payload values whose first has index `j` (R182). -/
def derandFrom (j : Nat) : List Soft → List Soft
  | [] => []
  | x :: rest => invIf (pnBit j) x :: derandFrom (j + 1) rest

/-- `DERAND`: the sequence restarts at payload bit 0 of every frame (R182). -/
def derandomize (x : List Soft) : List Soft := derandFrom 0 x

/-- The output of `NRZM(y)` (R185). -/
def nrzmOut (last : Bool) (y : Soft) : Soft := invIf last y

/-- The output of `NRZS(y)` (R186). -/
def nrzsOut (last : Bool) (y : Soft) : Soft := invIf (!last) y

/-- One step of the decoder `D` that `DIFF_MODE` selects: NRZ-M for 1, else NRZ-S (R187). -/
def diffOut (mode : Nat) (last : Bool) (y : Soft) : Soft := if mode = 1 then nrzmOut last y else nrzsOut last y

/-- `D` along a list of values: the outputs, and `LASTBIT` after the last (R185 to R187: `LASTBIT <- hard(y)`). -/
def diffRun (mode : Nat) (last : Bool) : List Soft → List Soft × Bool
  | [] => ([], last)
  | y :: rest =>
    let tail := diffRun mode (hard y) rest
    (diffOut mode last y :: tail.1, tail.2)

/-- `DIFF` over one frame: the marker's outputs are discarded, the payload's are kept (R187). `DIFF_MODE = 0` gives the payload
and leaves `LASTBIT` unchanged. -/
def diffFrame (mode : Nat) (last : Bool) (marker payload : List Soft) : List Soft × Bool :=
  if mode = 0 then (payload, last) else diffRun mode (diffRun mode last marker).2 payload

/-! ## Meanings -/

/-- `DERAND` (R182): the derandomized payload. -/
def execDerand (x : List Soft) (s : State) : Host.Outcome State Fault Refusal :=
  .next (withAnswer (.softs (derandomize x)) s)

/-- `NRZM` (R185): the decoded value; `LASTBIT` takes the input's hard bit. -/
def execNrzm (y : Soft) (s : State) : Host.Outcome State Fault Refusal :=
  .next (withAnswer (.soft (nrzmOut s.lastBit y)) { s with lastBit := hard y })

/-- `NRZS` (R186): the decoded value; `LASTBIT` takes the input's hard bit. -/
def execNrzs (y : Soft) (s : State) : Host.Outcome State Fault Refusal :=
  .next (withAnswer (.soft (nrzsOut s.lastBit y)) { s with lastBit := hard y })

end Sys2Proof.Machine
end

