-- ==== Sys2Proof/Machine/ReedSolomon.lean ====
section
/-! DEFINITION. The Reed-Solomon decoder (45_reed_solomon.md): GF(256), the codes, one codeword, one interleaved frame. -/

namespace Sys2Proof.Machine

/-! ## The field GF(256) (R220, R221) -/

/-- Multiplication by `x` modulo `p(x) = x^8 + x^7 + x^2 + x + 1` (R220). -/
def xtime (a : Byte) : Byte := (a <<< 1) ^^^ (if a.msb then 0x87 else 0)

/-- `gmul(a, b)`: polynomial multiplication modulo `p(x)`, by the bits of `b` from the highest (R220); 0 at once for `b = 0`, where
every term is 0. -/
def gmul (a b : Byte) : Byte :=
  if b = 0 then 0
  else [7, 6, 5, 4, 3, 2, 1, 0].foldl (fun acc i => xtime acc ^^^ (if b.getLsbD i then a else 0)) 0

/-- `gpow(a, e)`: `a` multiplied by itself `e` times (R220). -/
def gpow (a : Byte) : Nat → Byte
  | 0 => 1
  | e + 1 => gmul a (gpow a e)

/-- `ginv(a)` for `a ≠ 0`: the `b` with `gmul(a, b) = 1`, that is `α^(255 - LOG[a])` (R220, R221). -/
def ginv (a : Byte) : Byte := gexp ((255 - glog a) % 255)

/-- `β^e` with `β = α^11`, which has order 255 (R223). -/
def betaPow (e : Nat) : Byte := gexp (11 * e % 255)

/-! ## Polynomials over GF(256), lowest coefficient first -/

/-- Coefficientwise sum. -/
def polyAdd : List Byte → List Byte → List Byte
  | [], q => q
  | p, [] => p
  | a :: p, b :: q => (a ^^^ b) :: polyAdd p q

/-- Product with a constant. -/
def polyScale (k : Byte) (p : List Byte) : List Byte := p.map (gmul k)

/-- Product with `x^m`. -/
def polyShift (m : Nat) (p : List Byte) : List Byte := List.replicate m 0 ++ p

/-- Product of two polynomials. -/
def polyMul : List Byte → List Byte → List Byte
  | [], _ => []
  | a :: p, q => polyAdd (polyScale a q) (polyShift 1 (polyMul p q))

/-- Value at `x`, by Horner's rule. -/
def polyEval (p : List Byte) (x : Byte) : Byte := p.foldr (fun a acc => a ^^^ gmul x acc) 0

/-- Formal derivative: in characteristic 2 the odd coefficients, one place down. -/
def polyDeriv : List Byte → List Byte
  | _ :: a :: rest => a :: 0 :: polyDeriv rest
  | _ => []

/-! ## The codes (R222, R223, R227) -/

/-- `fcr = 128 - E`, the first consecutive root exponent (R223). -/
def fcr (e : Nat) : Nat := 128 - e

/-- The generator `g(x) = Π (x - β^(fcr + i))`, `i = 0..2E-1`, lowest coefficient first (R223). -/
def generator (e : Nat) : List Byte :=
  (List.range (2 * e)).foldl (fun g i => polyMul [betaPow (fcr e + i), 1] g) [1]

/-- The value `r(x)` of a received word whose first symbol is the coefficient of `x^254` (R223, R227). -/
def wordEval (r : List Byte) (x : Byte) : Byte := r.foldl (fun acc a => gmul x acc ^^^ a) 0

/-- The syndromes `S_i = r(β^(fcr + i))`, `i = 0..2E-1` (R227). -/
def syndromes (e : Nat) (r : List Byte) : List Byte :=
  (List.range (2 * e)).map fun i => wordEval r (betaPow (fcr e + i))

/-- A word is a codeword exactly when every syndrome is 0 (R227). -/
def isCodeword (e : Nat) (r : List Byte) : Bool := (syndromes e r).all fun x => x == 0

/-- `d(r, c)`: the number of positions that differ (R228). -/
def hamming : List Byte → List Byte → Nat
  | a :: p, b :: q => (a != b).toNat + hamming p q
  | _, _ => 0

/-! ## Decoding one codeword (R228, realised as R229 says; log 13) -/

/-- The state of Berlekamp-Massey: current and previous locator, its length, the gap and the last nonzero discrepancy. -/
structure BmState where
  /-- current locator -/
  cur : List Byte
  /-- locator before the last length change -/
  prev : List Byte
  /-- length `ν` of the current locator -/
  len : Nat
  /-- steps since the last length change -/
  gap : Nat
  /-- discrepancy at the last length change -/
  disc : Byte
  deriving DecidableEq, Repr

/-- `Σ_i Λ_i S_(n-i)`, the syndromes given latest first. -/
def dot : List Byte → List Byte → Byte
  | a :: p, b :: q => gmul a b ^^^ dot p q
  | _, _ => 0

/-- One step of Berlekamp-Massey at syndrome index `n`; `seen` holds `S_n, S_(n-1), …` (R229). -/
def bmStep (n : Nat) (seen : List Byte) (b : BmState) : BmState :=
  let d := dot b.cur seen
  let next := polyAdd b.cur (polyShift b.gap (polyScale (gmul d (ginv b.disc)) b.prev))
  if d = 0 then { b with gap := b.gap + 1 }
  else if 2 * b.len ≤ n then { cur := next, prev := b.cur, len := n + 1 - b.len, gap := 1, disc := d }
  else { b with cur := next, gap := b.gap + 1 }

/-- Berlekamp-Massey over the syndromes from index `n` on (R229). -/
def bmRun (n : Nat) (seen : List Byte) (b : BmState) : List Byte → BmState
  | [] => b
  | x :: rest => bmRun (n + 1) (x :: seen) (bmStep n (x :: seen) b) rest

/-- The error locator `Λ` and its length `ν` (R229). -/
def locator (syn : List Byte) : List Byte × Nat :=
  let b := bmRun 0 [] { cur := [1], prev := [1], len := 0, gap := 1, disc := 1 } syn
  (b.cur, b.len)

/-- `X_j^(-1) = β^(j - 254)` for position `j`, with `β^255 = 1` (R229). -/
def invLocator (j : Nat) : Byte := betaPow (j + 1)

/-- Chien search: the positions whose inverse locator is a root of `Λ` (R229). -/
def chien (lam : List Byte) : List Nat := (List.range 255).filter fun j => polyEval lam (invLocator j) == 0

/-- `Ω(x) = S(x) Λ(x) mod x^(2E)` (R229). -/
def evaluator (e : Nat) (syn lam : List Byte) : List Byte := (polyMul syn lam).take (2 * e)

/-- Forney: `e_j = X_j^(1 - fcr) · Ω(X_j^(-1)) / Λ'(X_j^(-1))` (R229). -/
def forney (e : Nat) (omega lamDeriv : List Byte) (j : Nat) : Byte :=
  gmul (betaPow ((j + 1) * (fcr e - 1)))
    (gmul (polyEval omega (invLocator j)) (ginv (polyEval lamDeriv (invLocator j))))

/-- The received word with the error values at the located positions removed. -/
def applyErrors (r : List Byte) (positions : List Nat) (value : Nat → Byte) : List Byte :=
  positions.foldl (fun w j => w.modify j (fun a => a ^^^ value j)) r

/-- The candidate of R229 for a word that is no codeword: none where the locator is too long or has too few roots. -/
def candidate (e : Nat) (r : List Byte) : Option (List Byte) :=
  let syn := syndromes e r
  let loc := locator syn
  let positions := chien loc.1
  if e < loc.2 then none
  else if positions.length ≠ loc.2 then none
  else some (applyErrors r positions (forney e (evaluator e syn loc.1) (polyDeriv loc.1)))

/-- `RS_CW_DECODE(r)`: the codeword within `E` of `r` and its distance, none where the word is uncorrectable (R228). The
candidate of R229 is accepted only if it is a codeword within `E` of the received word. -/
def rsCwDecode (e : Nat) (r : List Byte) : Option (List Byte × Nat) :=
  if isCodeword e r then some (r, 0)
  else
    match candidate e r with
    | none => none
    | some w => if isCodeword e w ∧ hamming r w ≤ e then some (w, hamming r w) else none

/-! ## Decoding one frame (R230 to R232) -/

/-- `conv`: wire symbol to conventional basis (R231). -/
def fromWire (dual : Bool) (a : Byte) : Byte := if dual then tal1Tab a else a

/-- `back`: conventional symbol to the wire's basis (R231). -/
def toWire (dual : Bool) (a : Byte) : Byte := if dual then talTab a else a

/-- Every `depth`-th byte of the rest of a frame, whose first byte has index `k`, `count` of them. A byte the frame does not have
is a free value (log 11). -/
def everyNth (depth : Nat) : Nat → Nat → List Byte → List Byte
  | 0, _, _ => []
  | count + 1, k, rest => rest.headD (Config.beyondByte k) :: everyNth depth count (k + depth) (rest.drop depth)

/-- Codeword `b` of an interleaved frame: `w_b[j] = frame[j · I + b]`, `j = 0..254` (R230). -/
def branchWord (depth b : Nat) (frame : List Byte) : List Byte := everyNth depth 255 b (frame.drop b)

/-- One branch decoded: its wire symbols after decoding, its count and its uncorrectable mark (R232). -/
structure BranchResult where
  /-- the branch's wire symbols after decoding -/
  word : List Byte
  /-- symbols corrected, 0 for an uncorrectable branch -/
  count : Nat
  /-- 1 for an uncorrectable branch -/
  uncorr : Bool
  deriving DecidableEq, Repr

/-- Decode one branch: a corrected codeword is written back, an uncorrectable branch keeps its received bytes (R232). -/
def decodeBranch (e : Nat) (dual : Bool) (wire : List Byte) : BranchResult :=
  match rsCwDecode e (wire.map (fromWire dual)) with
  | some (word, cnt) => { word := word.map (toWire dual), count := cnt, uncorr := false }
  | none => { word := wire, count := 0, uncorr := true }

/-- The first symbol of every branch, then the second of every branch, `count` times. -/
def roundRobin : Nat → List (List Byte) → List Byte
  | 0, _ => []
  | count + 1, words => words.map (fun w => w.headD 0) ++ roundRobin count (words.map List.tail)

/-- Branch words interleaved back into a frame of `255 · I` bytes: byte `j · I + b` is symbol `j` of branch `b` (R230, R232). -/
def interleave (words : List (List Byte)) : List Byte := roundRobin 255 words

/-- What `RS_DECODE` gives (R232). -/
structure RsResult where
  /-- output bytes -/
  bytes : List Byte
  /-- symbols corrected, by branch -/
  count : List Nat
  /-- uncorrectable marks, by branch -/
  uncorr : List Bool
  deriving DecidableEq, Repr

/-- `RS_DECODE(frame)` for a profile; depth, basis and parity handling from `MODE` (R232). -/
def rsDecodeFrame (c : CfgRegs) (profile : Bool) (frame : List Byte) : RsResult :=
  let depth := rsDepth c
  let branches :=
    (List.range depth).map fun b => decodeBranch (rsCapability profile) (rsDual c) (branchWord depth b frame)
  let out := interleave (branches.map BranchResult.word)
  { bytes := if rsKeepParity c then out else out.take (rsDataLen profile * depth)
    count := branches.map BranchResult.count
    uncorr := branches.map BranchResult.uncorr }

/-- Check 6 of `START` on a frame in hand: a legal depth and exactly `255 · I` bytes (47_host_commands.md R272; R230). -/
def rsGeometryLegal (c : CfgRegs) (len : Nat) : Bool :=
  decide (1 ≤ rsDepth c ∧ rsDepth c ≤ Config.iMax ∧ len = 255 * rsDepth c)

/-! ## Meanings -/

/-- `RS_DECODE` of a profile on a frame. With a geometry that `START` refuses the operation is never performed and nothing
changes (30_encoding.md R92; log 8). -/
def rsDecodeOp (profile : Bool) (frame : List Byte) (s : State) : State :=
  if rsGeometryLegal s.cfg frame.length then
    let r := rsDecodeFrame s.cfg profile frame
    withAnswer (.corrected r.bytes r.count r.uncorr) s
  else s

/-- `RS_DECODE_223` (R232): RS(255,223). -/
def execRsDecode223 (frame : List Byte) (s : State) : Host.Outcome State Fault Refusal :=
  .next (rsDecodeOp false frame s)

/-- `RS_DECODE_239` (R232): RS(255,239). -/
def execRsDecode239 (frame : List Byte) (s : State) : Host.Outcome State Fault Refusal :=
  .next (rsDecodeOp true frame s)

end Sys2Proof.Machine
end

