-- ==== Sys2Proof/Machine/Viterbi.lean ====
section
/-! DEFINITION. The rate-1/2 Viterbi decoder (44_viterbi.md): one frame is decoded by a whole trellis pass and one traceback. -/

namespace Sys2Proof.Machine

/-! ## The code (R201) -/

/-- The number of encoder states, `2^(K-1)` (R201). -/
def stateCount (code : VitCode) : Nat := 2 ^ (code.k - 1)

/-- `reg = (u << (K-1)) | s`: the newest input above the state (R201). -/
def encReg (code : VitCode) (u : Bool) (st : Nat) : Nat := u.toNat <<< (code.k - 1) ||| st

/-- The two code symbols of a register value, in transmission order (R201). -/
def codePair (code : VitCode) (reg : Nat) : Bool × Bool :=
  (parity (reg &&& code.g1) ^^ code.inv1, parity (reg &&& code.g2) ^^ code.inv2)

/-- The next encoder state, `(u << (K-2)) | (s >> 1)` (R201). -/
def encNext (code : VitCode) (u : Bool) (st : Nat) : Nat := u.toNat <<< (code.k - 2) ||| st >>> 1

/-- The code symbols of a message from a start state (R201). -/
def encodeFrom (code : VitCode) (st : Nat) : List Bool → List (Bool × Bool)
  | [] => []
  | u :: rest => codePair code (encReg code u st) :: encodeFrom code (encNext code u st) rest

/-! ## Metric and trellis step (R202, R203) -/

/-- `cost(y, c)`: `127 - y` if `c = 1`, else `y + 128` (R202); both lie in 0..255. -/
def cost (y : Soft) (bit : Bool) : Nat := if bit then (127 - y.toInt).toNat else (y.toInt + 128).toNat

/-- The cost of one received pair against one pair of code symbols (R203). -/
def pairCost (y : Soft × Soft) (bits : Bool × Bool) : Nat := cost y.1 bits.1 + cost y.2 bits.2

/-- The predecessor of `st` with oldest bit `x`, `((s' & low) << 1) | x`, `low = 2^(K-2) - 1` (R203). -/
def pred (code : VitCode) (st : Nat) (x : Bool) : Nat := (st &&& (2 ^ (code.k - 2) - 1)) <<< 1 ||| x.toNat

/-- The input bit that enters `st`, `s' >> (K-2)` (R203, R204). -/
def entryBit (code : VitCode) (st : Nat) : Bool := decide (st >>> (code.k - 2) % 2 = 1)

/-- `m_x`: the metric of reaching `st` from its predecessor with oldest bit `x` (R203). -/
def branchMetric (code : VitCode) (pm : List Nat) (y : Soft × Soft) (st : Nat) (x : Bool) : Nat :=
  pm.getD (pred code st x) 0 + pairCost y (codePair code (encReg code (entryBit code st) (pred code st x)))

/-- Compare and select: predecessor 1 only if strictly better (R203). -/
def selectBranch (code : VitCode) (pm : List Nat) (y : Soft × Soft) (st : Nat) : Nat × Bool :=
  let m0 := branchMetric code pm y st false
  let m1 := branchMetric code pm y st true
  if m1 < m0 then (m1, true) else (m0, false)

/-- One add-compare-select step: the new metrics and the decision bits, by state (R203). -/
def acs (code : VitCode) (pm : List Nat) (y : Soft × Soft) : List Nat × List Bool :=
  ((List.range (stateCount code)).map (selectBranch code pm y)).unzip

/-- The soft values read as code-symbol pairs (R200). -/
def pairsOf : List Soft → List (Soft × Soft)
  | y1 :: y2 :: rest => (y1, y2) :: pairsOf rest
  | _ => []

/-- All steps of a frame: the final metrics, and the decision bits of every step, last step first. -/
def acsRun (code : VitCode) : List Nat → List (Soft × Soft) → List (List Bool) → List Nat × List (List Bool)
  | pm, [], decisions => (pm, decisions)
  | pm, y :: rest, decisions =>
    let step := acs code pm y
    acsRun code step.1 rest (step.2 :: decisions)

/-! ## Traceback, bit-error count, normalisation (R204 to R206) -/

/-- The least metric over the code's states. -/
def minMetric (pm : List Nat) : Nat :=
  match pm with
  | [] => 0
  | m :: rest => rest.foldl min m

/-- The smallest state that attains the least metric (R204). -/
def bestState (pm : List Nat) : Nat := pm.idxOf (minMetric pm)

/-- The traceback from state `st` over decision bits, last step first: the decoded bits in time order, and the state the path
started from (R204). -/
def traceback (code : VitCode) (st : Nat) : List (List Bool) → List Bool → List Bool × Nat
  | [], bits => (bits, st)
  | d :: earlier, bits =>
    traceback code (pred code st (d.getD st false)) earlier (entryBit code st :: bits)

/-- How many hard decisions differ from the code symbols (R205). -/
def countDiffering : List (Soft × Soft) → List (Bool × Bool) → Nat
  | y :: ys, r :: rs => (hard y.1 != r.1).toNat + (hard y.2 != r.2).toNat + countDiffering ys rs
  | _, _ => 0

/-- Metrics less their least (R206), held for `Config.pmStates` states, the states beyond the code's at 0 (log 14). -/
def normalise (pm : List Nat) : List Nat :=
  let low := minMetric pm
  pm.map (fun m => m - low) ++ List.replicate (Config.pmStates - pm.length) 0

/-- What `VIT_DECODE` gives: bytes, estimated bit-error count, and the metrics kept for the next frame (R208). -/
structure VitResult where
  /-- output bytes -/
  bytes : List Byte
  /-- estimated bit-error count (R205) -/
  ber : Nat
  /-- normalised path metrics (R206) -/
  pm : List Nat
  deriving DecidableEq, Repr

/-- The decoded bits of a frame, and the state the decoded path started from (R203, R204). -/
def vitPath (code : VitCode) (pm : List Nat) (z : List Soft) : List Bool × Nat :=
  let run := acsRun code pm (pairsOf z) []
  traceback code (bestState run.1) run.2 []

/-- `VIT_DECODE(z)` (R208). -/
def vitDecode (code : VitCode) (pm : List Nat) (z : List Soft) : VitResult :=
  let path := vitPath code pm z
  { bytes := packBits path.1
    ber := countDiffering (pairsOf z) (encodeFrom code path.2 path.1)
    pm := normalise (acsRun code pm (pairsOf z) []).1 }

/-- Check 5 of `START`: a code that the decoder may run (47_host_commands.md R272; 10_state.md R33). -/
def codeLegal (code : VitCode) : Bool :=
  decide (Config.kMin ≤ code.k ∧ code.k ≤ Config.kMax ∧ 0 < code.g1 ∧ code.g1 < 2 ^ code.k ∧ 0 < code.g2 ∧ code.g2 < 2 ^ code.k)

/-! ## Meaning -/

/-- `VIT_DECODE` (R208): bytes and bit-error count; the normalised metrics are kept. With a code that `START` refuses the
operation is never performed and nothing changes (30_encoding.md R92; log 8). -/
def execVitDecode (z : List Soft) (s : State) : Host.Outcome State Fault Refusal :=
  .next
    (if codeLegal (vitCode s.cfg) then
      let r := vitDecode (vitCode s.cfg) s.pm z
      withAnswer (.decoded r.bytes r.ber) { s with pm := r.pm }
    else s)

end Sys2Proof.Machine
end

