-- ==== Sys2Proof/Machine/FrameChain.lean ====
section
/-! DEFINITION. The chain that turns a collected frame into a queued frame (46_frame_chain.md). -/

namespace Sys2Proof.Machine

/-- The corrected marker values `u_h[p + i]`, `i = 0..L-1` (42_deframer.md R156). -/
def frameMarker (c : CfgRegs) (v : List Soft) (h : BitVec 3) (p : Nat) : List Soft :=
  (List.range (markerLen c)).map fun i => corrected c v h (p + i)

/-- The corrected payload values `u_h[p + L + j]`, `j = 0..P-1` (42_deframer.md R156). -/
def framePayload (c : CfgRegs) (v : List Soft) (h : BitVec 3) (p : Nat) : List Soft :=
  (List.range (payloadLen c)).map fun j => corrected c v h (p + markerLen c + j)

/-- `HARD_PACK(z)`: hard decisions packed first bit most significant (R252). -/
def hardPack (z : List Soft) : List Byte := packBits (z.map hard)

/-- The soft stages of `FRAME_EMIT`: `DERAND` if enabled, then `DIFF` if selected; the values, and `LASTBIT` after (R250). -/
def softStages (c : CfgRegs) (last : Bool) (marker payload : List Soft) : List Soft × Bool :=
  diffFrame (diffMode c) last marker (if derandEn c then derandomize payload else payload)

/-- Soft values to bytes: `VIT_DECODE` if enabled, else `HARD_PACK` with count 0 and the metrics kept (R250). -/
def byteStage (c : CfgRegs) (pm : List Nat) (z : List Soft) : VitResult :=
  if vitEn c then vitDecode (vitCode c) pm z else { bytes := hardPack z, ber := 0, pm := pm }

/-- `RS_DECODE` if enabled, else the bytes with no counts (R250). -/
def rsStage (c : CfgRegs) (bytes : List Byte) : RsResult :=
  if rsEn c then rsDecodeFrame c (rsProfile c) bytes else { bytes := bytes, count := [], uncorr := [] }

/-- `RS_CORR_LAST[b]` of a frame: the branch's count, 0 beyond the branches decoded (R255). -/
def corrLastOf (count : List Nat) : List Word := (List.range 8).map fun b => BitVec.ofNat 32 (count.getD b 0)

/-- `UPDATE_COUNTERS(tag, count, uncorr, ber)`, counters modulo 2^32 (R255). -/
def updateCounters (k : Counters) (tag : Word) (count : List Nat) (ber : Nat) : Counters :=
  { k with
    framesEmitted := k.framesEmitted + 1
    mismatchFrames := k.mismatchFrames + BitVec.ofNat 32 (bitOf tag 0).toNat
    rsUncorrFrames := k.rsUncorrFrames + BitVec.ofNat 32 (bitOf tag 1).toNat
    lastVitBer := BitVec.ofNat 32 ber
    lastTag := tag
    rsCorrLast := corrLastOf count
    rsCorrTotal := List.zipWith (fun a b => a + b) k.rsCorrTotal (corrLastOf count) }

/-- `FRAME_EMIT(p, h, flag, lock)`: build, decode and queue the frame whose marker starts at bit `p` (R250). -/
def emitFrame (p : Nat) (h : BitVec 3) (flag : Bool) (lock : Lock) (s : State) : State :=
  let z := softStages s.cfg s.lastBit (frameMarker s.cfg s.soft h p) (framePayload s.cfg s.soft h p)
  let v := byteStage s.cfg s.pm z.1
  let r := rsStage s.cfg v.bytes
  let tag := makeTag s.cfg flag lock r.uncorr v.ber
  pushFrame { bytes := r.bytes, tag := tag }
    { s with lastBit := z.2, pm := v.pm, counters := updateCounters s.counters tag r.count v.ber }

/-- The last payload bit of the frame at `POS` has just become available: `PHASE = COLLECT` and `n = POS + F - 1` for the bit
`n = AVAIL - 1` (spec/opcode_table.json, FRAME_EMIT; 42_deframer.md R152). -/
def frameComplete (s : State) : Bool :=
  decide (s.run = .running ∧ s.deframer.phase = .collect ∧ s.avail = s.deframer.pos + framePeriod s.cfg)

/-! ## Meanings -/

/-- `HARD_PACK` (R252): the packed bytes. -/
def execHardPack (z : List Soft) (s : State) : Host.Outcome State Fault Refusal :=
  .next (withAnswer (.bytes (hardPack z)) s)

/-- `FRAME_EMIT` (R250), at the bit that completes the frame at `POS`; at any other moment the operation is not selected and
nothing happens (42_deframer.md R152; log 7). -/
def execFrameEmit (s : State) : Host.Outcome State Fault Refusal :=
  .next
    (if frameComplete s then emitFrame s.deframer.pos s.deframer.hyp s.deframer.flag s.deframer.lock s else s)

end Sys2Proof.Machine
end

