-- ==== Sys2Proof/Machine/DeframerFsm.lean ====
section
/-! DEFINITION. The frame deframer: the bit step, acquisition, collection, checks and resynchronisation (42_deframer.md). -/

namespace Sys2Proof.Machine

/-! ## Steps of the deframer -/

/-- `ACQ_EVAL()`: one acquisition attempt at `POS` (R153). -/
def acqEval (s : State) : State :=
  let best := bestScore s.cfg s.soft s.deframer.pos
  let h := bestHypothesis s.cfg s.soft s.deframer.hyp s.deframer.pos
  let s1 := setLastScore best s
  if acqThreshold s.cfg ≤ best then
    { s1 with
      deframer :=
        { s1.deframer with hyp := h, lock := .syncing, good := 0, miss := 0, flag := false, phase := .collect } }
  else { s1 with deframer := { s1.deframer with pos := s1.deframer.pos + 1 } }

/-- The deframer in `NO_SYNC`, searching, at window start `pos`; `HYP` is kept (R154, R160, R165). -/
def searchFrom (pos : Nat) (s : State) : State :=
  { s with
    deframer :=
      { s.deframer with lock := .noSync, good := 0, miss := 0, flag := false, phase := .search, pos := pos } }

/-- `enter_NO_SYNC()`: the failed marker is offered to the full correlator once more (R160). -/
def enterNoSync (s : State) : State := acqEval (clearMetrics (searchFrom s.deframer.pos s))

/-- `COLLECT_END()`: emit the frame, then expect the next marker one period on (R155). -/
def collectEnd (s : State) : State :=
  let s1 := emitFrame s.deframer.pos s.deframer.hyp s.deframer.flag s.deframer.lock s
  { s1 with
    deframer := { s1.deframer with pos := s1.deframer.pos + framePeriod s1.cfg, phase := .check } }

/-- `CHECK_SYNCING(ok)` (R158). -/
def checkSyncing (ok : Bool) (s : State) : State :=
  if ok then
    let good := s.deframer.good + 1
    if goodToLock s.cfg ≤ good then
      { s with
        deframer := { s.deframer with good := good, lock := .synced, miss := 0, flag := false, phase := .collect } }
    else { s with deframer := { s.deframer with good := good, flag := false, phase := .collect } }
  else enterNoSync (countSyncError s)

/-- `CHECK_SYNCED(ok)` (R159). -/
def checkSynced (ok : Bool) (s : State) : State :=
  if ok then { s with deframer := { s.deframer with miss := 0, flag := false, phase := .collect } }
  else
    let s1 := countSyncError s
    let miss := s1.deframer.miss + 1
    if lossThresh s1.cfg ≤ miss then enterNoSync { s1 with deframer := { s1.deframer with miss := miss } }
    else { s1 with deframer := { s1.deframer with miss := miss, flag := true, phase := .collect } }

/-- `CHECK_EVAL()`: the held hypothesis alone is scored at `POS` (R157). -/
def checkEval (s : State) : State :=
  let sc := score s.cfg s.soft s.deframer.hyp s.deframer.pos
  let ok := decide (chkThreshold s.cfg ≤ sc)
  let s1 := setLastScore sc s
  match s.deframer.lock with
  | .syncing => checkSyncing ok s1
  | .synced => checkSynced ok s1
  | .noSync => checkSynced ok s1

/-- `deframer_resync()`: search from the next bit to arrive (R165). -/
def deframerResync (s : State) : State := clearMetrics (searchFrom s.avail s)

/-! ## The bit step (R152) -/

/-- Bit `n` is the last of the window at `POS`: `n = POS + L - 1`. -/
def windowEnds (s : State) (n : Nat) : Bool := decide (n + 1 = s.deframer.pos + markerLen s.cfg)

/-- Bit `n` is the last of the frame at `POS`: `n = POS + F - 1`. -/
def frameEnds (s : State) (n : Nat) : Bool := decide (n + 1 = s.deframer.pos + framePeriod s.cfg)

/-- `deframer_bit(n)` (R152). -/
def deframerBit (n : Nat) (s : State) : State :=
  match s.deframer.phase with
  | .search => if windowEnds s n then acqEval s else s
  | .collect => if frameEnds s n then collectEnd s else s
  | .check => if windowEnds s n then checkEval s else s

/-- `new_avail`: in QPSK a bit needs both components of its symbol (40_streams.md R114). -/
def newAvail (c : CfgRegs) (nv : Nat) : Nat := if isQpsk c then 2 * (nv / 2) else nv

/-- One turn of the loop of `make_available()`: bit `AVAIL` becomes available and the deframer sees it (40_streams.md R114). -/
def availBit (s : State) : State := deframerBit s.avail { s with avail := s.avail + 1 }

/-- `count` bits made available, in index order (40_streams.md R114). -/
def availBits : Nat → State → State
  | 0, s => s
  | count + 1, s => availBits count (availBit s)

/-- `make_available()` (40_streams.md R114). -/
def makeAvailable (s : State) : State := availBits (newAvail s.cfg s.nv - s.avail) s

/-! ## Meanings

By R152 a deframer step runs at one bit only: the one that has just become available, `n = AVAIL - 1`, and only in its phase. At
any other moment it is not selected and nothing happens (log 7). -/

/-- The bit that has just become available ends the window at `POS`, in the given phase. -/
def windowComplete (ph : Phase) (s : State) : Bool :=
  decide (s.run = .running ∧ s.deframer.phase = ph ∧ s.avail = s.deframer.pos + markerLen s.cfg)

/-- `ACQ_EVAL` (R153). -/
def execAcqEval (s : State) : Host.Outcome State Fault Refusal :=
  .next (if windowComplete .search s then acqEval s else s)

/-- `COLLECT` (R155). -/
def execCollect (s : State) : Host.Outcome State Fault Refusal :=
  .next (if frameComplete s then collectEnd s else s)

/-- `CHECK_EVAL` (R157). -/
def execCheckEval (s : State) : Host.Outcome State Fault Refusal :=
  .next (if windowComplete .check s then checkEval s else s)

end Sys2Proof.Machine
end

