-- ==== Sys2Proof/Machine/Commands.lean ====
section
/-! DEFINITION. The host commands (47_host_commands.md). -/

namespace Sys2Proof.Machine

/-! ## Legality and checks -/

/-- Which commands are legal in a run state (R283; 30_encoding.md R83). -/
def commandLegal (r : RunState) : Command → Bool
  | .nop => true
  | .start => r = .idle
  | .stop => r ≠ .idle
  | .softReset => true
  | .resync => r = .running
  | .clearCounters => true
  | .clearErrors => true
  | .illegal => false

/-- Check 1 of `START` fails: marker length (R272). -/
def failsMarkerLen (c : CfgRegs) : Bool := decide (markerLen c < 1 ∨ Config.lMax < markerLen c)

/-- Check 2 of `START` fails: frame length (R272). -/
def failsFrameLen (c : CfgRegs) : Bool :=
  decide (¬ (markerLen c < framePeriod c ∧ framePeriod c ≤ Config.maxFrameBits))

/-- Check 3 of `START` fails: payload alignment (R272). -/
def failsAlignment (c : CfgRegs) : Bool :=
  decide (payloadLen c % 8 ≠ 0 ∨ (vitEn c = true ∧ payloadLen c % 16 ≠ 0))

/-- Check 4 of `START` fails: differential mode (R272). -/
def failsDiffMode (c : CfgRegs) : Bool := decide (diffMode c = 3)

/-- Check 5 of `START` fails: Viterbi code (R272). -/
def failsVitCode (c : CfgRegs) : Bool := vitEn c && !codeLegal (vitCode c)

/-- Check 6 of `START` fails: Reed-Solomon geometry (R272). -/
def failsRsGeometry (c : CfgRegs) : Bool := rsEn c && !rsGeometryLegal c (bytesIn c)

/-- Check 7 of `START` fails: lock thresholds (R272). -/
def failsLockCfg (c : CfgRegs) : Bool := decide (goodToLock c = 0 ∨ lossThresh c = 0)

/-- The number of the first failing check of `START`, 0 if none fails (R272). -/
def startFail (c : CfgRegs) : BitVec 3 :=
  if failsMarkerLen c then 1
  else if failsFrameLen c then 2
  else if failsAlignment c then 3
  else if failsDiffMode c then 4
  else if failsVitCode c then 5
  else if failsRsGeometry c then 6
  else if failsLockCfg c then 7
  else 0

/-! ## The commands where they are legal -/

/-- `START` in `IDLE`, the configuration to be checked given (R272). -/
def startCommand (c : CfgRegs) (s : State) : State :=
  if startFail c = 0 then startRun s else raiseCfgFail (startFail c) s

/-- `STOP` in `RUNNING`, `DONE` and `STOPPED` (R273). -/
def stopCommand (s : State) : State :=
  let s1 := if s.queue ≠ [] ∧ 0 < s.txPos then raiseStatus .aborted s else s
  { dropQueue s1 with run := .stopped }

/-- `CLEAR_COUNTERS` (R276). -/
def clearCountersCommand (s : State) : State := { s with counters := countersReset }

/-- A command's effect where it is legal in the run state (R272 to R278). -/
def commandEffect (cmd : Command) (s : State) : State :=
  match cmd with
  | .nop => s
  | .start => startCommand s.cfg s
  | .stop => stopCommand s
  | .softReset => softResetState s
  | .resync => deframerResync s
  | .clearCounters => clearCountersCommand s
  | .clearErrors => clearErrorBits s
  | .illegal => s

/-- A command: its effect where it is legal in the run state, else only `CMD_ERR` (R279, R280). -/
def runCommand (cmd : Command) (s : State) : State :=
  if commandLegal s.run cmd then commandEffect cmd s else raiseStatus .cmdErr s

/-- The configuration registers with `DIFF_MODE` set to its illegal value 3 (10_state.md R26). -/
def withDiffReserved (c : CfgRegs) : CfgRegs := { c with mode := c.mode ||| 0x18 }

/-! ## Meanings -/

/-- `NOP` (R278). -/
def execNop (s : State) : Host.Outcome State Fault Refusal := .next (runCommand .nop s)

/-- `START` (R272). -/
def execStart (s : State) : Host.Outcome State Fault Refusal := .next (runCommand .start s)

/-- `STOP` (R273). -/
def execStop (s : State) : Host.Outcome State Fault Refusal := .next (runCommand .stop s)

/-- `SOFT_RESET` (R274). -/
def execSoftReset (s : State) : Host.Outcome State Fault Refusal := .next (runCommand .softReset s)

/-- `RESYNC` (R275). -/
def execResync (s : State) : Host.Outcome State Fault Refusal := .next (runCommand .resync s)

/-- `CLEAR_COUNTERS` (R276). -/
def execClearCounters (s : State) : Host.Outcome State Fault Refusal := .next (runCommand .clearCounters s)

/-- `CLEAR_ERRORS` (R277). -/
def execClearErrors (s : State) : Host.Outcome State Fault Refusal := .next (runCommand .clearErrors s)

/-- `CMD_ILLEGAL` (R279): no effect except `CMD_ERR`, whatever the word (log 21). -/
def execCmdIllegal (_w : Word) (s : State) : Host.Outcome State Fault Refusal := .next (runCommand .illegal s)

/-- `DIFF_RESERVED` (43_descrambler.md R191): `START` meeting the selection `DIFF_MODE = 3` refuses it with the first failing
check, at the latest check 4; outside `IDLE` that `START` is out of state (log 9). -/
def execDiffReserved (s : State) : Host.Outcome State Fault Refusal :=
  .next
    (if commandLegal s.run .start then startCommand (withDiffReserved s.cfg) s else raiseStatus .cmdErr s)

end Sys2Proof.Machine
end

