-- ==== Sys2Proof/Machine/HostAccess.lean ====
section
/-! DEFINITION. Host reads and writes of the register window (47_host_commands.md R270, R271, R280). -/

namespace Sys2Proof.Machine

/-- `EXECUTE(v)`: a word written to `CMD` is decoded whole and its command run (R280). -/
def executeWord (v : Word) (s : State) : State := runCommand (commandOf v) s

/-- `WRITE(off, v)` at an aligned offset (R271). -/
def writeWord (off : BitVec 12) (v : Word) (s : State) : State :=
  match regAt off with
  | none => s
  | some r =>
    match accessOf r with
    | .wo => executeWord v s
    | .rwi => writeCfg r v s
    | .ro => raiseStatus .wrErr s

/-! ## Meanings -/

/-- `READ` (R270): the register's value, no side effect on the block (20_memory.md R67); refused at a misaligned offset (R66). -/
def execRead (off : BitVec 12) (s : State) : Host.Outcome State Fault Refusal :=
  if wfOffset off then .next (withAnswer (.rdata (readWord s off)) s) else .refused .misalignedAccess

/-- `WRITE` (R271); refused at a misaligned offset (20_memory.md R66). -/
def execWrite (off : BitVec 12) (v : Word) (s : State) : Host.Outcome State Fault Refusal :=
  if wfOffset off then .next (writeWord off v s) else .refused .misalignedAccess

end Sys2Proof.Machine
end

