-- ==== Sys2Proof/Machine/Streams.lean ====
section
/-! DEFINITION. The stream ports: input beats, end of stream, output beats (40_streams.md). -/

namespace Sys2Proof.Machine

/-- A soft value is accepted: appended to the history, counted, and its bits made available (R112). -/
def acceptSoft (v : Soft) (s : State) : State :=
  makeAvailable
    { s with
      soft := s.soft ++ [v]
      nv := s.nv + 1
      counters := { s.counters with symbolsIn := s.counters.symbolsIn + 1 } }

/-- `end_of_stream()`: the run is done; the frame being collected is never pushed, everything else keeps its value (R116). -/
def endOfStream (s : State) : State := { s with run := .done }

/-- The input port takes a beat: held while `in_ready = 0`, processed in `RUNNING`, discarded in `STOPPED` and `DONE`
(R111 to R115). -/
def takeBeat (last : Bool) (v : Soft) (s : State) : State :=
  if inReady s then
    match s.run with
    | .running => if last then endOfStream (acceptSoft v s) else acceptSoft v s
    | .idle => s
    | .stopped => s
    | .done => s
  else s

/-! ## Meanings -/

/-- `SYM` (R112). While `in_ready = 0` the producer holds the beat and no event occurs. -/
def execSym (d : Soft) (s : State) : Host.Outcome State Fault Refusal := .next (takeBeat false d s)

/-- `SYM_LAST` (R113). -/
def execSymLast (d : Soft) (s : State) : Host.Outcome State Fault Refusal := .next (takeBeat true d s)

/-- `POP` (R118): the presented beat is delivered. While `out_valid = 0` the consumer waits and no event occurs. -/
def execPop (s : State) : Host.Outcome State Fault Refusal :=
  .next
    (match outBeat s with
    | some b => withAnswer (.beat b) (deliverBeat b s)
    | none => s)

end Sys2Proof.Machine
end

