-- ==== Sys2Proof/Machine/Dispatch.lean ====
section
/-! DEFINITION. One arm per constructor of Instr, each one direct call of its meaning. -/

namespace Sys2Proof.Machine

def exec (i : Instr) (s : State) : Host.Outcome State Fault Refusal :=
  match i with
  | .nop => Sys2Proof.Machine.execNop s
  | .start => Sys2Proof.Machine.execStart s
  | .stop => Sys2Proof.Machine.execStop s
  | .softReset => Sys2Proof.Machine.execSoftReset s
  | .resync => Sys2Proof.Machine.execResync s
  | .clearCounters => Sys2Proof.Machine.execClearCounters s
  | .clearErrors => Sys2Proof.Machine.execClearErrors s
  | .cmdIllegal w => Sys2Proof.Machine.execCmdIllegal w s
  | .read off => Sys2Proof.Machine.execRead off s
  | .write off v => Sys2Proof.Machine.execWrite off v s
  | .sym d => Sys2Proof.Machine.execSym d s
  | .symLast d => Sys2Proof.Machine.execSymLast d s
  | .pop => Sys2Proof.Machine.execPop s
  | .hypBpsk n h => Sys2Proof.Machine.execHypBpsk n h s
  | .hypQpsk n h => Sys2Proof.Machine.execHypQpsk n h s
  | .scoreHard n h => Sys2Proof.Machine.execScoreHard n h s
  | .scoreSoft n h => Sys2Proof.Machine.execScoreSoft n h s
  | .derand x => Sys2Proof.Machine.execDerand x s
  | .nrzm y => Sys2Proof.Machine.execNrzm y s
  | .nrzs y => Sys2Proof.Machine.execNrzs y s
  | .hardPack z => Sys2Proof.Machine.execHardPack z s
  | .vitDecode z => Sys2Proof.Machine.execVitDecode z s
  | .rsDecode223 frame => Sys2Proof.Machine.execRsDecode223 frame s
  | .rsDecode239 frame => Sys2Proof.Machine.execRsDecode239 frame s
  | .diffReserved => Sys2Proof.Machine.execDiffReserved s
  | .correlate n => Sys2Proof.Machine.execCorrelate n s
  | .acqEval => Sys2Proof.Machine.execAcqEval s
  | .collect => Sys2Proof.Machine.execCollect s
  | .checkEval => Sys2Proof.Machine.execCheckEval s
  | .frameEmit => Sys2Proof.Machine.execFrameEmit s

end Sys2Proof.Machine
end

