-- ==== Sys2Proof/Machine/Fetch.lean ====
section
/-! DEFINITION. Which offered event the block accepts next (00_scope.md R13, R14; 20_memory.md R70; log 1). -/

namespace Sys2Proof.Machine

/-- A port's readiness: the input port by `in_ready`, the output port by `out_valid` (40_streams.md R111, R117), the others
always. -/
def portReady (s : State) : Port → Bool
  | .host => true
  | .cmd => true
  | .input => inReady s
  | .output => outValid s
  | .reset => true
  | .hypothesis => true
  | .score => true
  | .derand => true
  | .diff => true
  | .pack => true
  | .rs => true
  | .deframer => true

/-- The first offer whose port accepts it in state `s`, and the offers without it: a held beat stays in its place. -/
def takeOffer (s : State) : List Offer → Option (Offer × List Offer)
  | [] => none
  | o :: rest =>
    if portReady s o.port then some (o, rest)
    else
      match takeOffer s rest with
      | some (o', rest') => some (o', o :: rest')
      | none => none

/-- The state with the accepted offer taken off the list. -/
def withOffers (offers : List Offer) (s : State) : State := { s with offers := offers }

/-- A state in which the port of an offer accepts it: for an input beat that is held, the state a successful `START` leaves
(47_host_commands.md R272; log 2); else the state itself. -/
def readyFor (p : Port) (s : State) : State :=
  match p with
  | .input => if inReady s then s else startRun s
  | _ => s

end Sys2Proof.Machine
end

