-- ==== Sys2Proof/Machine/Step.lean ====
section
/-! DEFINITION. One step of the machine: the next accepted event. -/

namespace Sys2Proof.Machine

/-- One step: the first offer that its port accepts is taken and run (20_memory.md R70). A hardware reset is no row of the
opcode table and is run here (70_reset_and_hazards.md R330). With no acceptable offer no event occurs and nothing changes
(00_scope.md R13). Bytes that the decoder refuses take no step (20_memory.md R66). -/
def step (s : State) : Host.Outcome State Fault Refusal :=
  match takeOffer s s.offers with
  | none => .next s
  | some (o, rest) =>
    if o.port = .reset then .next (hardReset (withOffers rest s))
    else
      match decode o.port o.bytes with
      | .ok i => exec i (withOffers rest s)
      | .error e => .refused (.badEncoding e)

/-- `s` with a word of the opcode table offered first, so that the next step runs it. For an input beat in a state that would
hold it, the machine is put where a successful `START` puts it, since in any other state no beat is processed (log 2). -/
def State.withFetchWord (s : State) (nbits w : Nat) : State :=
  let o := tableOffer nbits w
  { readyFor o.port s with offers := o :: s.offers }

end Sys2Proof.Machine
end

