-- ==== Sys2Proof/Safety.lean ====
section
/-! DEFINITION. What counts as a safe state of the block, in the terms the statements use: the invariants the rules state. -/

namespace Sys2Proof.Machine

/-- Reserved fields of the configuration registers hold 0: a write does not store them (10_state.md R21; 47_host_commands.md
R271). -/
def ReservedZero (c : CfgRegs) : Prop :=
  c.mode &&& ~~~storedMask .mode = 0 ∧ c.syncLen &&& ~~~storedMask .syncLen = 0
    ∧ c.lockCfg &&& ~~~storedMask .lockCfg = 0 ∧ c.vitCfg &&& ~~~storedMask .vitCfg = 0

/-- Outside `IDLE` the visible configuration is the one `START` validated (10_state.md R45). -/
def Latched (s : State) : Prop := s.run ≠ .idle → startFail s.cfg = 0

/-- In `IDLE` nothing has been processed and nothing is queued (10_state.md R43, R54; 47_host_commands.md R281, R282). -/
def IdleClean (s : State) : Prop :=
  s.run = .idle → s.deframer = deframerReset ∧ s.nv = 0 ∧ s.queue = []

/-- The history holds the accepted values, and a bit is available exactly when all values of its symbol are in
(10_state.md R47, R48; 40_streams.md R114). -/
def StreamInv (s : State) : Prop := s.soft.length = s.nv ∧ s.avail = newAvail s.cfg s.nv

/-- The deframer's invariants (42_deframer.md R169, R164). The position clauses are stated outside `IDLE`, where the marker
length is legal (log 16). -/
structure DeframerInv (s : State) : Prop where
  /-- `PHASE = SEARCH ⇔ LOCK = NO_SYNC` -/
  phase_iff : s.deframer.phase = .search ↔ s.deframer.lock = .noSync
  /-- `FLAG = 1 ⇒ LOCK = SYNCED` -/
  flag_synced : s.deframer.flag = true → s.deframer.lock = .synced
  /-- `LOCK = SYNCING ⇒ GOOD < GOOD_TO_LOCK` -/
  good_syncing : s.deframer.lock = .syncing → s.deframer.good < goodToLock s.cfg
  /-- `GOOD ≤ GOOD_TO_LOCK` -/
  good_le : s.deframer.good ≤ goodToLock s.cfg
  /-- `LOCK ≠ SYNCED ⇒ MISS = 0` -/
  miss_zero : s.deframer.lock ≠ .synced → s.deframer.miss = 0
  /-- `MISS < LOSS_THRESH` while `SYNCED` -/
  miss_lt : s.deframer.lock = .synced → s.deframer.miss < lossThresh s.cfg
  /-- in `SEARCH` and `CHECK`, `POS + L - 1 ≥ AVAIL` -/
  window_ahead : s.run ≠ .idle → s.deframer.phase ≠ .collect → s.avail < s.deframer.pos + markerLen s.cfg
  /-- in `COLLECT`, `POS + F - 1 ≥ AVAIL` -/
  frame_ahead : s.run ≠ .idle → s.deframer.phase = .collect → s.avail < s.deframer.pos + framePeriod s.cfg

/-- The output queue: never over its capacity (40_streams.md R120), empty in `STOPPED` (R118), every frame of exactly `B_out`
bytes (46_frame_chain.md R253), and fewer bytes of the head delivered than it has. -/
structure QueueInv (s : State) : Prop where
  /-- `|Q| ≤ P_OUT_CAP` -/
  le_cap : s.queue.length ≤ Config.outCap
  /-- nothing is queued in `STOPPED` -/
  stopped_empty : s.run = .stopped → s.queue = []
  /-- every queued frame has `B_out` bytes -/
  frame_len : ∀ f ∈ s.queue, f.bytes.length = bytesOut s.cfg
  /-- the head frame has a byte left to deliver; with nothing queued `TXPOS = 0` -/
  tx_lt : s.txPos < (match s.queue with | [] => 1 | f :: _ => f.bytes.length)

/-- The lists that stand for fixed banks keep their length (10_state.md R40, R41, R50; log 14). -/
def ShapeInv (s : State) : Prop :=
  s.pm.length = Config.pmStates ∧ s.counters.rsCorrTotal.length = 8 ∧ s.counters.rsCorrLast.length = 8

/-- The machine's invariant: it holds at reset and every step keeps it. -/
structure MachineInv (s : State) : Prop where
  /-- reserved register fields hold 0 -/
  reserved : ReservedZero s.cfg
  /-- a legal configuration outside `IDLE` -/
  latched : Latched s
  /-- `IDLE` is clean -/
  idleClean : IdleClean s
  /-- history and availability -/
  stream : StreamInv s
  /-- deframer -/
  deframer : DeframerInv s
  /-- output queue -/
  queue : QueueInv s
  /-- fixed banks -/
  shape : ShapeInv s

/-- States some sequence of steps reaches from `s`. -/
inductive Reaches : State → State → Prop
  | refl (s : State) : Reaches s s
  | tail {s t u : State} : Reaches s t → step t = .next u → Reaches s u

end Sys2Proof.Machine
end

