-- ==== Sys2Proof/Certificates/Slice0/Obligations.lean ====
section
/-! DEFINITION. The statements for the provers. Each docstring names the rule of spec/ it formalises; a clause that rests on a
choice of the model names the log entry. -/

open Sys2Proof Sys2Proof.Machine

/-! ## Terms the statements use -/

/-- Every internal element at its reset value (10_state.md R43 to R51), and every error bit and counter 0. -/
def Sys2Proof.Machine.InternalAtReset (t : State) : Prop :=
  t.run = .idle ∧ t.deframer.lock = .noSync ∧ t.deframer.phase = .search ∧ t.deframer.hyp = 0 ∧ t.deframer.good = 0
    ∧ t.deframer.miss = 0 ∧ t.deframer.flag = false ∧ t.deframer.pos = 0 ∧ t.nv = 0 ∧ t.avail = 0 ∧ t.soft = []
    ∧ t.lastBit = false ∧ (∀ st, t.pm.getD st 0 = 0) ∧ t.queue = [] ∧ t.txPos = 0
    ∧ t.errors.cfgErr = false ∧ t.errors.cmdErr = false ∧ t.errors.wrErr = false ∧ t.errors.aborted = false
    ∧ t.errors.cfgFail = 0

/-- Offset and reset value of every register at a fixed offset but `CAPS` and `MAX_FRAME_BITS` (10_state.md R22). -/
def Sys2Proof.Machine.resetReads : List (BitVec 12 × Word) :=
  [(0x000, 0x53440025), (0x004, 7), (0x008, 0), (0x00C, 0), (0x010, 0x00001144), (0x014, 0x20), (0x018, 0x1ACFFC1D),
    (0x01C, 0), (0x020, 0x2000), (0x024, 0x1E), (0x028, 0x1C), (0x02C, 0x302), (0x030, 0x008B6797), (0x040, 0), (0x044, 0),
    (0x048, 0), (0x04C, 0), (0x050, 0), (0x054, 0), (0x058, 0), (0x05C, 0), (0x060, 0), (0x0C8, 0)]

/-- The registers that `SOFT_RESET` sets to 0 among the counters and views (10_state.md R34 to R41). -/
def Sys2Proof.Machine.counterOffsets : List (BitVec 12) :=
  [0x040, 0x044, 0x048, 0x04C, 0x050, 0x054, 0x058, 0x05C, 0x060, 0x080, 0x084, 0x088, 0x08C, 0x090, 0x094, 0x098, 0x09C,
    0x0A0, 0x0A4, 0x0A8, 0x0AC, 0x0B0, 0x0B4, 0x0B8, 0x0BC]

/-- Check `k` of `START` fails, in the words of 47_host_commands.md R272. -/
def Sys2Proof.Machine.StartCheckFails (c : CfgRegs) : Nat → Prop
  | 1 => markerLen c < 1 ∨ 64 < markerLen c
  | 2 => ¬ (markerLen c < framePeriod c ∧ framePeriod c ≤ Config.maxFrameBits)
  | 3 => (framePeriod c - markerLen c) % 8 ≠ 0 ∨ (vitEn c = true ∧ (framePeriod c - markerLen c) % 16 ≠ 0)
  | 4 => diffMode c = 3
  | 5 =>
    vitEn c = true
      ∧ ((vitCode c).k < 3 ∨ 9 < (vitCode c).k ∨ (vitCode c).g1 = 0 ∨ 2 ^ (vitCode c).k ≤ (vitCode c).g1
        ∨ (vitCode c).g2 = 0 ∨ 2 ^ (vitCode c).k ≤ (vitCode c).g2)
  | 6 => rsEn c = true ∧ (rsDepth c < 1 ∨ 8 < rsDepth c ∨ bytesIn c ≠ 255 * rsDepth c)
  | 7 => goodToLock c = 0 ∨ lossThresh c = 0
  | _ => False

/-- The configuration passes every check of `START`. -/
def Sys2Proof.Machine.ConfigLegal (c : CfgRegs) : Prop := ∀ k, ¬ StartCheckFails c k

/-- Instruction `i` is the command `cmd` with code `code`: the command word itself, or the host write of it to `CMD`. -/
def Sys2Proof.Machine.IsCommand (i cmd : Instr) (code : Word) : Prop := i = cmd ∨ i = .write 0x008 code

/-- `SW = SYNC_WORD_HI · 2^32 + SYNC_WORD_LO` and `M[i] = SW[L - 1 - i]` (10_state.md R28), from the registers. -/
def Sys2Proof.Machine.markerBitOf (c : CfgRegs) (i : Nat) : Bool :=
  (c.syncWordHi.toNat * 2 ^ 32 + c.syncWordLo.toNat).testBit (c.syncLen.toNat % 128 - 1 - i)

/-- `v` is what the row that `MODE.MOD` (bit 0) selects answers for bit `n` under hypothesis `h`: `HYP_QPSK`, or `HYP_BPSK` with
`h[0]` (30_encoding.md R91). -/
def Sys2Proof.Machine.CorrectedAs (s : State) (h : BitVec 3) (n : Nat) (v : Soft) : Prop :=
  exec (if s.cfg.mode.getLsbD 0 then .hypQpsk n h else .hypBpsk n (h.extractLsb' 0 1)) s = .next { s with answer := .soft v }

/-- `z` and `last` are the payload outputs and the final `LASTBIT` of `DIFF` over marker values `m` and payload values `y`
(43_descrambler.md R187, with R185 for mode 1 and R186 for mode 2), value by value: an output is the input, complemented where
the hard decision before it on the channel is 1 (mode 1) or 0 (mode 2). -/
def Sys2Proof.Machine.DiffOf (mode : Nat) (last0 : Bool) (m y z : List Soft) (last : Bool) : Prop :=
  (mode = 0 → z = y ∧ last = last0)
    ∧ (mode ≠ 0 → z.length = y.length ∧ last = decide (0 ≤ (y.getD (y.length - 1) 0).toInt)
      ∧ ∀ j, j < y.length →
          let before : Soft := if j = 0 then m.getD (m.length - 1) 0 else y.getD (j - 1) 0
          z.getD j 0 = (if (0 ≤ before.toInt ↔ mode = 1) then ~~~ y.getD j 0 else y.getD j 0))

/-- The word of branch `b` of an interleaved frame in the decoder's basis: `conv(w[j · I + b])`, `j = 0..254`
(45_reed_solomon.md R230, R231). -/
def Sys2Proof.Machine.branchOf (c : CfgRegs) (b : Nat) (w : List Byte) : List Byte :=
  (List.range 255).map fun j => fromWire (rsDual c) (w.getD (j * rsDepth c + b) 0)

/-! ### Paths of the convolutional code, written out for the statements about `VIT_DECODE` -/

/-- The two code symbols of input `u` in state `st`: `reg = u · 2^(K-1) + st`, and a symbol is 1 where an odd number of the tapped
bits of `reg` is set, inverted if the code says so (44_viterbi.md R201). -/
def Sys2Proof.Machine.symbolsOf (code : VitCode) (u : Bool) (st : Nat) : List Bool :=
  let reg := u.toNat * 2 ^ (code.k - 1) + st
  let odd := fun g : Nat => decide (((List.range code.k).filter fun i => reg.testBit i && g.testBit i).length % 2 = 1)
  [odd code.g1 ^^ code.inv1, odd code.g2 ^^ code.inv2]

/-- The state after input `u` in state `st`, `u · 2^(K-2) + st div 2` (44_viterbi.md R201). -/
def Sys2Proof.Machine.stateAfter (code : VitCode) (u : Bool) (st : Nat) : Nat := u.toNat * 2 ^ (code.k - 2) + st / 2

/-- `r[0..2N-1]`: the code bits of message `msg` from state `st` (44_viterbi.md R205). -/
def Sys2Proof.Machine.pathBits (code : VitCode) (st : Nat) : List Bool → List Bool
  | [] => []
  | u :: msg => symbolsOf code u st ++ pathBits code (stateAfter code u st) msg

/-- The states of the path of `msg` from `st`, the final state first. -/
def Sys2Proof.Machine.pathStates (code : VitCode) (st : Nat) : List Bool → List Nat
  | [] => [st]
  | u :: msg => pathStates code (stateAfter code u st) msg ++ [st]

/-- The metric of a path: `PM` of its start state, and `127 - y` for each code bit 1, `y + 128` for each code bit 0
(44_viterbi.md R202, R203). -/
def Sys2Proof.Machine.pathCost (code : VitCode) (pm : List Nat) (z : List Soft) (st : Nat) (msg : List Bool) : Int :=
  pm.getD st 0
    + (((pathBits code st msg).zip z).map fun p => if p.1 then 127 - p.2.toInt else p.2.toInt + 128).sum

/-! ## Reset and steps -/

/-- R54: what a hardware reset and `SOFT_RESET` leave. -/
def Obligations.ResetsLeaveResetValues : Prop :=
  ∀ s : State,
    (InternalAtReset (hardReset s) ∧ (∀ p ∈ resetReads, readWord (hardReset s) p.1 = p.2)
      ∧ (∀ off ∈ counterOffsets, readWord (hardReset s) off = 0)
      ∧ readWord (hardReset s) 0x0C0 = BitVec.ofNat 32 Config.outCap
      ∧ readWord (hardReset s) 0x0C4 = BitVec.ofNat 32 Config.maxFrameBits)
    ∧ ∃ t, exec .softReset s = .next t ∧ InternalAtReset t ∧ (∀ off ∈ counterOffsets, readWord t off = 0) ∧ t.cfg = s.cfg

/-- The step around `exec` (the model's choice, log 1). The accepted offer is taken off the list and its decoded instruction is
run; so is a well-formed instruction that is offered first at a port that accepts it. An accepted reset resets the block, and with
every offer held nothing happens. -/
def Obligations.StepRunsDecodedOffer : Prop :=
  (∀ (s : State) (o : Offer) (rest : List Offer) (i : Instr),
    takeOffer s s.offers = some (o, rest) → o.port ≠ .reset → decode o.port o.bytes = .ok i →
      step s = exec i { s with offers := rest })
  ∧ (∀ (s : State) (i : Instr) (rest : List Offer),
    wf i = true → s.offers = offerOf i :: rest → portReady s (portOf i) = true →
      step s = exec i { s with offers := rest })
  ∧ (∀ (s : State) (o : Offer) (rest : List Offer),
    takeOffer s s.offers = some (o, rest) → o.port = .reset → step s = .next (hardReset { s with offers := rest }))
  ∧ ∀ s : State, (∀ o ∈ s.offers, portReady s o.port = false) → step s = .next s

/-! ## Encodings -/

/-- Decode and encode agree on every well-formed instruction, with every operand. -/
def Obligations.DecodeEncodeRoundTrip : Prop := ∀ i : Instr, wf i = true → decode (portOf i) (encode i) = .ok i

/-- Words written out from the spec's encodings decode to the instructions they stand for (30_encoding.md R83 to R85, R87). The
clauses with `decodeTableWord` rest on the model's choice of the format that a bare word is read in, by its width and value
(log 5), and those on a `MODE` word (R91) on the model's unit ports (log 4). -/
def Obligations.SpecWordsDecode : Prop :=
  decodeTableWord 32 0x00000001 = some .start ∧ decodeTableWord 32 0x00000006 = some .clearErrors
    ∧ decodeTableWord 32 0x00000007 = some (.cmdIllegal 7) ∧ decodeTableWord 32 0x00000011 = some (.cmdIllegal 0x11)
    ∧ decode .input [0x64, 0x00] = .ok (.sym 100) ∧ decode .input [0x9B, 0x01] = .ok (.symLast 0x9B)
    ∧ decodeTableWord 8 0x10 = some (.nrzs 0) ∧ decodeTableWord 8 0x18 = some .diffReserved

/-- R84 with R82 and R83: every word written to `CMD` decodes to a well-formed instruction, and to `CMD_ILLEGAL` exactly where one
of bits 31:4 is set or OPCODE is 7 to F. -/
def Obligations.CommandWordsMatchWhole : Prop :=
  ∀ w : Word,
    (decode .cmd (leBytes 4 w.toNat) = .ok (.cmdIllegal w) ↔ (w >>> 4 ≠ 0 ∨ 7 ≤ (w &&& 0xF).toNat))
      ∧ (∃ j, decode .cmd (leBytes 4 w.toNat) = .ok j ∧ wf j = true)
      ∧ (∀ j, decode .cmd (leBytes 4 w.toNat) = .ok j → wf j = true)

/-- R66: an access at a misaligned offset or of a width other than 32 bits is refused and takes no step, a read as a write with
any data (the places of a transaction's fields are the model's, log 3). -/
def Obligations.MisalignedAndNarrowAccessesRefused : Prop :=
  (∀ (off : BitVec 12) (v : Word) (s : State), off.toNat % 4 ≠ 0 →
      exec (.read off) s = .refused .misalignedAccess ∧ exec (.write off v) s = .refused .misalignedAccess)
    ∧ (∀ (s : State) (bytes : List Byte) (rest : List Offer),
        s.offers = { port := .host, bytes := bytes } :: rest → bytes.length ≠ 6 →
          step s = .refused (.badEncoding .accessWidth))
    ∧ (∀ (s : State) (off : BitVec 12) (rest : List Offer), off.toNat % 4 ≠ 0 →
        s.offers = { port := .host, bytes := leBytes 6 (2 * off.toNat) } :: rest →
          step s = .refused (.badEncoding .misalignedOffset))
    ∧ (∀ (s : State) (off : BitVec 12) (v : Word) (rest : List Offer), off.toNat % 4 ≠ 0 →
        s.offers = { port := .host, bytes := leBytes 6 (1 + 2 * off.toNat + 2 ^ 13 * v.toNat) } :: rest →
          step s = .refused (.badEncoding .misalignedOffset))

/-! ## Host reads and writes -/

/-- R270, with the register map of R22: the value of every read, and no change but the answer (log 6). -/
def Obligations.ReadAnswersRegisterValue : Prop :=
  ∀ (s : State) (off : BitVec 12), off.toNat % 4 = 0 →
    exec (.read off) s = .next { s with answer := .rdata (readWord s off) }
      ∧ (off = 0x000 → readWord s off = 0x53440025)
      ∧ (off = 0x004 → readWord s off = 0x00000007)
      ∧ (off = 0x008 → readWord s off = 0)
      ∧ (off = 0x00C → readWord s off = statusWord s)
      ∧ (off = 0x010 → readWord s off = s.cfg.mode)
      ∧ (off = 0x014 → readWord s off = s.cfg.syncLen)
      ∧ (off = 0x018 → readWord s off = s.cfg.syncWordLo)
      ∧ (off = 0x01C → readWord s off = s.cfg.syncWordHi)
      ∧ (off = 0x020 → readWord s off = s.cfg.frameBits)
      ∧ (off = 0x024 → readWord s off = s.cfg.acqThresh)
      ∧ (off = 0x028 → readWord s off = s.cfg.chkThresh)
      ∧ (off = 0x02C → readWord s off = s.cfg.lockCfg)
      ∧ (off = 0x030 → readWord s off = s.cfg.vitCfg)
      ∧ (off = 0x040 → readWord s off = s.counters.framesEmitted)
      ∧ (off = 0x044 → readWord s off = s.counters.syncErrors)
      ∧ (off = 0x048 → readWord s off = s.counters.mismatchFrames)
      ∧ (off = 0x04C → readWord s off = s.counters.rsUncorrFrames)
      ∧ (off = 0x050 → readWord s off = s.counters.lastVitBer)
      ∧ (off = 0x054 → readWord s off = s.counters.lastScore)
      ∧ (off = 0x058 → readWord s off = hypWord s.deframer.hyp)
      ∧ (off = 0x05C → readWord s off = s.counters.lastTag)
      ∧ (off = 0x060 → readWord s off = s.counters.symbolsIn)
      ∧ (∀ b : Nat, b < 8 → off.toNat = 0x080 + 4 * b → readWord s off = s.counters.rsCorrTotal.getD b 0)
      ∧ (∀ b : Nat, b < 8 → off.toNat = 0x0A0 + 4 * b → readWord s off = s.counters.rsCorrLast.getD b 0)
      ∧ (off = 0x0C0 → readWord s off = BitVec.ofNat 32 Config.outCap)
      ∧ (off = 0x0C4 → readWord s off = BitVec.ofNat 32 Config.maxFrameBits)
      ∧ (off = 0x0C8 → readWord s off = BitVec.ofNat 32 s.queue.length)
      ∧ ((0x030 < off.toNat ∧ off.toNat < 0x040) ∨ (0x060 < off.toNat ∧ off.toNat < 0x080) ∨ 0x0C8 < off.toNat →
          readWord s off = 0)

/-- R271: a write executes a command, stores a configuration register in `IDLE`, sets `WR_ERR`, or does nothing. -/
def Obligations.WriteFollowsAccessClass : Prop :=
  ∀ (s : State) (off : BitVec 12) (v : Word), off.toNat % 4 = 0 →
    (off = 0x008 → exec (.write off v) s = exec (decodeCommand v) s)
      ∧ (0x010 ≤ off.toNat ∧ off.toNat ≤ 0x030 → s.run = .idle →
          ∃ t, exec (.write off v) s = .next { s with cfg := t }
            ∧ t.mode = (if off = 0x010 then v &&& 0x00003FFF else s.cfg.mode)
            ∧ t.syncLen = (if off = 0x014 then v &&& 0x0000007F else s.cfg.syncLen)
            ∧ t.syncWordLo = (if off = 0x018 then v else s.cfg.syncWordLo)
            ∧ t.syncWordHi = (if off = 0x01C then v else s.cfg.syncWordHi)
            ∧ t.frameBits = (if off = 0x020 then v else s.cfg.frameBits)
            ∧ t.acqThresh = (if off = 0x024 then v else s.cfg.acqThresh)
            ∧ t.chkThresh = (if off = 0x028 then v else s.cfg.chkThresh)
            ∧ t.lockCfg = (if off = 0x02C then v &&& 0x0000FFFF else s.cfg.lockCfg)
            ∧ t.vitCfg = (if off = 0x030 then v &&& 0x00FFFFFF else s.cfg.vitCfg))
      ∧ (0x010 ≤ off.toNat ∧ off.toNat ≤ 0x030 → s.run ≠ .idle →
          exec (.write off v) s = .next { s with errors := { s.errors with wrErr := true } })
      ∧ (off.toNat < 0x008 ∨ off.toNat = 0x00C ∨ (0x040 ≤ off.toNat ∧ off.toNat ≤ 0x060)
            ∨ (0x080 ≤ off.toNat ∧ off.toNat ≤ 0x0C8) →
          exec (.write off v) s = .next { s with errors := { s.errors with wrErr := true } })
      ∧ ((0x030 < off.toNat ∧ off.toNat < 0x040) ∨ (0x060 < off.toNat ∧ off.toNat < 0x080) ∨ 0x0C8 < off.toNat →
          exec (.write off v) s = .next s)

/-- R25: the fields of `STATUS` (for counts that fill their eight bits, R164). -/
def Obligations.StatusFields : Prop :=
  ∀ s : State, s.deframer.good ≤ 255 → s.deframer.miss ≤ 255 →
    ((statusWord s).extractLsb' 0 2).toNat = lockCode s.deframer.lock
      ∧ ((statusWord s).extractLsb' 2 2).toNat = runCode s.run
      ∧ (statusWord s).getLsbD 4 = s.errors.cfgErr
      ∧ (statusWord s).getLsbD 5 = s.errors.cmdErr
      ∧ (statusWord s).getLsbD 6 = s.errors.wrErr
      ∧ ((statusWord s).getLsbD 7 = true ↔ (s.run = .stopped ∨ s.run = .done) ∧ s.queue = [])
      ∧ (statusWord s).getLsbD 8 = s.errors.aborted
      ∧ (statusWord s).getLsbD 9 = inReady s
      ∧ (statusWord s).extractLsb' 10 2 = 0
      ∧ ((statusWord s).extractLsb' 12 4).toNat = s.errors.cfgFail.toNat
      ∧ ((statusWord s).extractLsb' 16 8).toNat = s.deframer.good
      ∧ ((statusWord s).extractLsb' 24 8).toNat = s.deframer.miss

/-- R37: the `HYP` register's view of the held hypothesis, its reset value, and that `CLEAR_COUNTERS` leaves it. -/
def Obligations.HypRegisterFields : Prop :=
  ∀ s : State,
    (readWord s 0x058).extractLsb' 0 3 = s.deframer.hyp
      ∧ ((readWord s 0x058).extractLsb' 3 2).toNat
          = ((s.deframer.hyp.getLsbD 1).toNat + 2 * (s.deframer.hyp.getLsbD 0).toNat) % 4
      ∧ (readWord s 0x058).getLsbD 5 = s.deframer.hyp.getLsbD 2
      ∧ (readWord s 0x058).getLsbD 6 = s.deframer.hyp.getLsbD 0
      ∧ (readWord s 0x058) >>> 7 = 0
      ∧ readWord State.reset 0x058 = 0
      ∧ (∃ t, exec .clearCounters s = .next t ∧ readWord t 0x058 = readWord s 0x058)
      ∧ (s.deframer.hyp.toNat < 2 →
          ((readWord s 0x058).extractLsb' 3 2).toNat = 0 ∨ ((readWord s 0x058).extractLsb' 3 2).toNat = 2)

/-! ## Commands -/

/-- R278: `NOP` changes nothing. -/
def Obligations.NopChangesNothing : Prop :=
  ∀ s : State, exec .nop s = .next s ∧ exec (.write 0x008 0x00000000) s = .next s

/-- R272: `START` in `IDLE` validates the configuration and begins, or reports the first failing check and nothing else; elsewhere
it is out of state. -/
def Obligations.StartValidatesAndBegins : Prop :=
  ∀ s : State,
    (s.run = .idle → ConfigLegal s.cfg →
      exec .start s
        = .next
            { s with
              run := .running, nv := 0, avail := 0, soft := []
              deframer := { lock := .noSync, phase := .search, hyp := 0, good := 0, miss := 0, flag := false, pos := 0 }
              lastBit := false, pm := List.replicate 256 0, queue := [], txPos := 0
              counters := { s.counters with symbolsIn := 0 } })
    ∧ (s.run = .idle → ∀ k : Nat, StartCheckFails s.cfg k → (∀ j, j < k → ¬ StartCheckFails s.cfg j) →
        exec .start s
          = .next { s with errors := { s.errors with cfgErr := true, cfgFail := BitVec.ofNat 3 k } })
    ∧ (s.run ≠ .idle → exec .start s = .next { s with errors := { s.errors with cmdErr := true } })

/-- R273: `STOP` where it is legal discards the queue, closes both streams and marks a cut transfer; in `IDLE` it is out of
state. -/
def Obligations.StopDiscardsAndCloses : Prop :=
  ∀ s : State,
    (s.run ≠ .idle →
      exec .stop s
          = .next
              { s with
                run := .stopped, queue := [], txPos := 0
                errors :=
                  { s.errors with aborted := s.errors.aborted || decide (s.queue ≠ [] ∧ 0 < s.txPos) } }
        ∧ ∃ t, exec .stop s = .next t ∧ inReady t = true ∧ outClosed t = true)
    ∧ (s.run = .idle → exec .stop s = .next { s with errors := { s.errors with cmdErr := true } })

/-- R274 and R332: `SOFT_RESET` in every run state sets everything to reset but the configuration registers. That the model's own
fields keep their values is the model's choice: the last returned value (log 6) and the offers not yet accepted (log 19). -/
def Obligations.SoftResetKeepsConfiguration : Prop :=
  ∀ s : State,
    exec .softReset s = .next { State.reset with cfg := s.cfg, answer := s.answer, offers := s.offers }

/-- R275 with R165: `RESYNC` in `RUNNING` restarts the search at the next bit to arrive; elsewhere it is out of state. -/
def Obligations.ResyncRestartsSearch : Prop :=
  ∀ s : State,
    (s.run = .running →
      exec .resync s
        = .next
            { s with
              deframer :=
                { s.deframer with
                  lock := .noSync, good := 0, miss := 0, flag := false, phase := .search, pos := s.avail }
              pm := List.replicate 256 0 })
    ∧ (s.run ≠ .running → exec .resync s = .next { s with errors := { s.errors with cmdErr := true } })

/-- R276: `CLEAR_COUNTERS` clears the counters and last-value registers and nothing else. -/
def Obligations.ClearCountersClearsOnlyCounters : Prop :=
  ∀ s : State,
    exec .clearCounters s
      = .next
          { s with
            counters :=
              { framesEmitted := 0, syncErrors := 0, mismatchFrames := 0, rsUncorrFrames := 0, lastVitBer := 0,
                lastScore := 0, lastTag := 0, symbolsIn := 0, rsCorrTotal := List.replicate 8 0,
                rsCorrLast := List.replicate 8 0 } }

/-- R277: `CLEAR_ERRORS` clears the error bits and nothing else. -/
def Obligations.ClearErrorsClearsOnlyErrors : Prop :=
  ∀ s : State,
    exec .clearErrors s
      = .next
          { s with errors := { cfgErr := false, cmdErr := false, wrErr := false, aborted := false, cfgFail := 0 } }

/-- R279: an illegal word, and a command out of its run states, changes nothing except `CMD_ERR`. -/
def Obligations.IllegalCommandsOnlySetCmdErr : Prop :=
  ∀ s : State,
    (∀ w : Word, (w >>> 4 ≠ 0 ∨ 7 ≤ (w &&& 0xF).toNat) →
      exec (.write 0x008 w) s = .next { s with errors := { s.errors with cmdErr := true } }
        ∧ exec (.cmdIllegal w) s = .next { s with errors := { s.errors with cmdErr := true } })
    ∧ (∀ i : Instr,
        ((IsCommand i .start 1 ∧ s.run ≠ .idle) ∨ (IsCommand i .stop 2 ∧ s.run = .idle)
            ∨ (IsCommand i .resync 4 ∧ s.run ≠ .running)) →
          exec i s = .next { s with errors := { s.errors with cmdErr := true } })

/-- R191: `START` refuses `DIFF_MODE = 3` with check 4 or an earlier failing check; nothing else changes. That the row is a
`START` that meets this selection, and so an out-of-state command outside `IDLE`, is the model's reading (log 9). -/
def Obligations.DiffModeThreeRefused : Prop :=
  ∀ s : State,
    (s.run = .idle →
      (∃ code : BitVec 3, 1 ≤ code.toNat ∧ code.toNat ≤ 4
        ∧ exec .diffReserved s = .next { s with errors := { s.errors with cfgErr := true, cfgFail := code } }
        ∧ ((¬ StartCheckFails s.cfg 1 ∧ ¬ StartCheckFails s.cfg 2 ∧ ¬ StartCheckFails s.cfg 3) → code = 4))
      ∧ (diffMode s.cfg = 3 → exec .start s = exec .diffReserved s))
    ∧ (s.run ≠ .idle → exec .diffReserved s = .next { s with errors := { s.errors with cmdErr := true } })

/-! ## Stream ports -/

/-- R111 and the port signals of R117. -/
def Obligations.PortSignals : Prop :=
  ∀ s : State,
    (inReady s = true ↔
        (s.run = .running ∧ s.queue.length < Config.outCap) ∨ s.run = .stopped ∨ s.run = .done)
      ∧ (outValid s = true ↔ 0 < s.queue.length)
      ∧ (outClosed s = true ↔ (s.run = .stopped ∨ s.run = .done) ∧ s.queue.length = 0)

/-- R112 and R114: an accepted value enters the history, is counted, and makes its bits available to the deframer in order. -/
def Obligations.SymMakesBitsAvailable : Prop :=
  ∀ (s : State) (d : Soft), s.run = .running → s.queue.length < Config.outCap → s.avail = newAvail s.cfg s.nv →
    let a : State :=
      { s with
        soft := s.soft ++ [d], nv := s.nv + 1
        counters := { s.counters with symbolsIn := s.counters.symbolsIn + 1 } }
    (isQpsk s.cfg = false → exec (.sym d) s = .next (deframerBit s.avail { a with avail := s.avail + 1 }))
      ∧ (isQpsk s.cfg = true → s.nv % 2 = 0 → exec (.sym d) s = .next a)
      ∧ (isQpsk s.cfg = true → s.nv % 2 = 1 →
          exec (.sym d) s
            = .next
                (deframerBit (s.avail + 1)
                  { deframerBit s.avail { a with avail := s.avail + 1 } with avail := s.avail + 2 }))

/-- R113: `SYM_LAST` does `SYM`, then ends the stream (R116: `RUN <- DONE`, nothing else changes). -/
def Obligations.SymLastIsSymThenEnd : Prop :=
  ∀ (s : State) (d : Soft), s.run = .running → s.queue.length < Config.outCap →
    ∃ t, exec (.sym d) s = .next t ∧ exec (.symLast d) s = .next { t with run := .done }

/-- R115: beats of a closed run are accepted and change nothing; in `IDLE` no beat is accepted. -/
def Obligations.ClosedRunDiscardsBeats : Prop :=
  ∀ (s : State) (d : Soft),
    (s.run = .stopped ∨ s.run = .done → inReady s = true ∧ exec (.sym d) s = .next s ∧ exec (.symLast d) s = .next s)
      ∧ (s.run = .idle → inReady s = false ∧ exec (.sym d) s = .next s ∧ exec (.symLast d) s = .next s)

/-- R118 with R117: one `POP` delivers one byte; the last byte carries the tag and takes the frame off the queue. -/
def Obligations.PopDeliversHeadByte : Prop :=
  ∀ (s : State) (f : Frame) (rest : List Frame), s.queue = f :: rest →
    (∀ h : s.txPos + 1 < f.bytes.length,
      exec .pop s
        = .next
            { s with
              txPos := s.txPos + 1
              answer :=
                .beat { data := f.bytes[s.txPos], sof := decide (s.txPos = 0), eof := false, tag := 0 } })
    ∧ (∀ h : s.txPos + 1 = f.bytes.length,
      exec .pop s
        = .next
            { s with
              queue := rest, txPos := 0
              answer :=
                .beat { data := f.bytes[s.txPos], sof := decide (s.txPos = 0), eof := true, tag := f.tag } })

/-! ## Correlator -/

/-- R132: the corrected value in BPSK. Where bit `n` has not been accepted some value is answered (log 10). -/
def Obligations.HypBpskResult : Prop :=
  ∀ (s : State) (n : Nat) (h : BitVec 1),
    ∃ v : Soft, exec (.hypBpsk n h) s = .next { s with answer := .soft v }
      ∧ ∀ hn : n < s.soft.length, v = (if h = 1 then ~~~ s.soft[n] else s.soft[n])

/-- R133 with the transforms of R131 written out for each index. Where a component has not been accepted some value is answered
(log 10). -/
def Obligations.HypQpskResult : Prop :=
  ∀ (s : State) (n : Nat) (h : BitVec 3),
    ∃ v : Soft, exec (.hypQpsk n h) s = .next { s with answer := .soft v }
      ∧ ∀ hn : 2 * (n / 2) + 1 < s.soft.length,
          let i := s.soft[2 * (n / 2)]
          let q := s.soft[2 * (n / 2) + 1]
          let iq : Soft × Soft :=
            match h.toNat with
            | 0 => (i, q)
            | 1 => (~~~ i, ~~~ q)
            | 2 => (~~~ q, i)
            | 3 => (q, ~~~ i)
            | 4 => (q, i)
            | 5 => (~~~ q, ~~~ i)
            | 6 => (~~~ i, q)
            | _ => (i, ~~~ q)
          v = (if n % 2 = 0 then iq.1 else iq.2)

/-- R134: `inv8` flips the hard decision and is an involution, so hypotheses `h` and `h xor 1` give complementary bits. -/
def Obligations.ComplementHypothesisFlipsBits : Prop :=
  (∀ x : Soft, hard (inv8 x) = !hard x ∧ inv8 (inv8 x) = x ∧ (inv8 x).toInt = - x.toInt - 1
      ∧ (hard x = true ↔ 0 ≤ x.toInt))
    ∧ ∀ (c : CfgRegs) (v : List Soft) (h : BitVec 3) (n : Nat),
        corrected c v (h ^^^ 1) n = inv8 (corrected c v h n)
          ∧ hard (corrected c v (h ^^^ 1) n) = !hard (corrected c v h n)

/-- R135: the hard score counts the window bits whose corrected value (R91: the hypothesis row that `MODE.MOD` selects) has the
marker bit (R28) as its hard decision, lies in `0..L`, and `h xor 1` scores the rest. -/
def Obligations.HardScoreResult : Prop :=
  ∀ (s : State) (n : Nat) (h : BitVec 3),
    (∀ m, CorrectedAs s h m (corrected s.cfg s.soft h m))
      ∧ ∃ k : Nat,
        k = ((List.range (s.cfg.syncLen.toNat % 128)).filter fun i =>
              decide (0 ≤ (corrected s.cfg s.soft h (n + i)).toInt) == markerBitOf s.cfg i).length
          ∧ exec (.scoreHard n h) s = .next { s with answer := .score k }
          ∧ k ≤ markerLen s.cfg
          ∧ exec (.scoreHard n (h ^^^ 1)) s = .next { s with answer := .score (markerLen s.cfg - k) }

/-- R136: the soft score is the exact sum over the window of the corrected values (R91: the hypothesis row that `MODE.MOD`
selects), complemented where the marker bit (R28) is 0; it lies in `-128·L .. 127·L`, and `h xor 1` scores `-L` less it. -/
def Obligations.SoftScoreResult : Prop :=
  ∀ (s : State) (n : Nat) (h : BitVec 3),
    (∀ m, CorrectedAs s h m (corrected s.cfg s.soft h m))
      ∧ ∃ x : Int,
        x = ((List.range (s.cfg.syncLen.toNat % 128)).map fun i =>
              if markerBitOf s.cfg i then (corrected s.cfg s.soft h (n + i)).toInt
              else - (corrected s.cfg s.soft h (n + i)).toInt - 1).sum
          ∧ exec (.scoreSoft n h) s = .next { s with answer := .score x }
          ∧ -128 * (markerLen s.cfg : Int) ≤ x ∧ x ≤ 127 * (markerLen s.cfg : Int)
          ∧ exec (.scoreSoft n (h ^^^ 1)) s = .next { s with answer := .score (- (markerLen s.cfg : Int) - x) }

/-- R137: the best score is attained and greatest; the held hypothesis wins a tie, else the smallest index does. The scores are
what the row that `MODE.CORR_SOFT` (bit 1) selects answers (R91). -/
def Obligations.CorrelatePrefersHeldHypothesis : Prop :=
  ∀ (s : State) (n : Nat),
    (∀ g, exec (if s.cfg.mode.getLsbD 1 then .scoreSoft n g else .scoreHard n g) s
        = .next { s with answer := .score (score s.cfg s.soft g n) })
    ∧ ∃ (h : BitVec 3) (best : Int),
      exec (.correlate n) s = .next { s with answer := .best h best }
        ∧ h ∈ hypotheses s.cfg ∧ score s.cfg s.soft h n = best
        ∧ (∀ g ∈ hypotheses s.cfg, score s.cfg s.soft g n ≤ best)
        ∧ (s.deframer.hyp ∈ hypotheses s.cfg → score s.cfg s.soft s.deframer.hyp n = best → h = s.deframer.hyp)
        ∧ (h ≠ s.deframer.hyp → ∀ g ∈ hypotheses s.cfg, score s.cfg s.soft g n = best → h.toNat ≤ g.toNat)
        ∧ hypotheses s.cfg = (if s.cfg.mode.getLsbD 0 then [0, 1, 2, 3, 4, 5, 6, 7] else [0, 1])

/-! ## Deframer -/

/-- R152: at the bit that has just become available, the row that the phase selects is the deframer's bit step (log 7). -/
def Obligations.DeframerRowsAreTheBitStep : Prop :=
  ∀ (s : State) (n : Nat), s.run = .running → s.avail = n + 1 →
    (s.deframer.phase = .search → exec .acqEval s = .next (deframerBit n s))
      ∧ (s.deframer.phase = .collect → exec .collect s = .next (deframerBit n s))
      ∧ (s.deframer.phase = .check → exec .checkEval s = .next (deframerBit n s))
      ∧ (n + 1 ≠ s.deframer.pos + (if s.deframer.phase = .collect then framePeriod s.cfg else markerLen s.cfg) →
          deframerBit n s = s)

/-- R153: one acquisition attempt, at the bit that ends the window at `POS` (log 7). -/
def Obligations.AcquisitionAttempt : Prop :=
  ∀ (s : State) (h : BitVec 3) (best : Int), s.run = .running → s.deframer.phase = .search →
    s.avail = s.deframer.pos + markerLen s.cfg →
    h = bestHypothesis s.cfg s.soft s.deframer.hyp s.deframer.pos → best = bestScore s.cfg s.soft s.deframer.pos →
      (s.cfg.acqThresh.toInt ≤ best →
        exec .acqEval s
          = .next
              { s with
                counters := { s.counters with lastScore := BitVec.ofInt 32 best }
                deframer :=
                  { lock := .syncing, phase := .collect, hyp := h, good := 0, miss := 0, flag := false
                    pos := s.deframer.pos } })
      ∧ (best < s.cfg.acqThresh.toInt →
        exec .acqEval s
          = .next
              { s with
                counters := { s.counters with lastScore := BitVec.ofInt 32 best }
                deframer := { s.deframer with pos := s.deframer.pos + 1 } })

/-- R155: at the frame's last payload bit the frame is emitted and the next marker is expected one period on (log 7). -/
def Obligations.CollectEmitsThenExpectsMarker : Prop :=
  ∀ s : State, s.run = .running → s.deframer.phase = .collect → s.avail = s.deframer.pos + framePeriod s.cfg →
    ∃ t, exec .frameEmit s = .next t
      ∧ exec .collect s
          = .next
              { t with deframer := { s.deframer with pos := s.deframer.pos + framePeriod s.cfg, phase := .check } }

/-- R157 with R158 and R160: the check in `SYNCING` (log 7). The lost lock's immediate attempt is R153's on the state shown. -/
def Obligations.CheckWhileSyncing : Prop :=
  ∀ (s : State) (sc : Int), s.run = .running → s.deframer.phase = .check → s.deframer.lock = .syncing →
    s.avail = s.deframer.pos + markerLen s.cfg → sc = score s.cfg s.soft s.deframer.hyp s.deframer.pos →
      (s.cfg.chkThresh.toInt ≤ sc → goodToLock s.cfg ≤ s.deframer.good + 1 →
        exec .checkEval s
          = .next
              { s with
                counters := { s.counters with lastScore := BitVec.ofInt 32 sc }
                deframer :=
                  { s.deframer with
                    lock := .synced, phase := .collect, good := s.deframer.good + 1, miss := 0, flag := false } })
      ∧ (s.cfg.chkThresh.toInt ≤ sc → s.deframer.good + 1 < goodToLock s.cfg →
        exec .checkEval s
          = .next
              { s with
                counters := { s.counters with lastScore := BitVec.ofInt 32 sc }
                deframer := { s.deframer with phase := .collect, good := s.deframer.good + 1, flag := false } })
      ∧ (sc < s.cfg.chkThresh.toInt →
        exec .checkEval s
          = exec .acqEval
              { s with
                counters :=
                  { s.counters with lastScore := BitVec.ofInt 32 sc, syncErrors := s.counters.syncErrors + 1 }
                deframer :=
                  { s.deframer with lock := .noSync, phase := .search, good := 0, miss := 0, flag := false }
                pm := List.replicate 256 0 })

/-- R157 with R159 and R160: the check in `SYNCED` tolerates fewer than `LOSS_THRESH` consecutive misses (log 7). -/
def Obligations.CheckWhileSynced : Prop :=
  ∀ (s : State) (sc : Int), s.run = .running → s.deframer.phase = .check → s.deframer.lock = .synced →
    s.avail = s.deframer.pos + markerLen s.cfg → sc = score s.cfg s.soft s.deframer.hyp s.deframer.pos →
      (s.cfg.chkThresh.toInt ≤ sc →
        exec .checkEval s
          = .next
              { s with
                counters := { s.counters with lastScore := BitVec.ofInt 32 sc }
                deframer := { s.deframer with phase := .collect, miss := 0, flag := false } })
      ∧ (sc < s.cfg.chkThresh.toInt → s.deframer.miss + 1 < lossThresh s.cfg →
        exec .checkEval s
          = .next
              { s with
                counters :=
                  { s.counters with lastScore := BitVec.ofInt 32 sc, syncErrors := s.counters.syncErrors + 1 }
                deframer := { s.deframer with phase := .collect, miss := s.deframer.miss + 1, flag := true } })
      ∧ (sc < s.cfg.chkThresh.toInt → lossThresh s.cfg ≤ s.deframer.miss + 1 →
        exec .checkEval s
          = exec .acqEval
              { s with
                counters :=
                  { s.counters with lastScore := BitVec.ofInt 32 sc, syncErrors := s.counters.syncErrors + 1 }
                deframer :=
                  { s.deframer with lock := .noSync, phase := .search, good := 0, miss := 0, flag := false }
                pm := List.replicate 256 0 })

/-- R154: `HYP` is replaced only by a successful acquisition attempt, and set to 0 by `START` and `SOFT_RESET`. -/
def Obligations.HypChangesOnlyAtAcquisition : Prop :=
  (∀ (n : Nat) (s : State), (deframerBit n s).deframer.hyp ≠ s.deframer.hyp →
      (deframerBit n s).deframer.lock = .syncing
        ∧ (deframerBit n s).deframer.hyp = bestHypothesis s.cfg s.soft s.deframer.hyp s.deframer.pos
        ∧ acqThreshold s.cfg ≤ bestScore s.cfg s.soft s.deframer.pos)
    ∧ (∀ (i : Instr) (s t : State), exec i s = .next t → t.deframer.hyp ≠ s.deframer.hyp →
        ((IsCommand i .start 1 ∨ IsCommand i .softReset 3) ∧ t.deframer.hyp = 0)
          ∨ ((i = .acqEval ∨ i = .checkEval ∨ (∃ d, i = .sym d) ∨ (∃ d, i = .symLast d)) ∧ s.run = .running))

/-! ## Frame chain -/

/-- R250 with R16, R254, R255 and R256: the frame's corrected payload goes through `DERAND`, `DIFF` over marker and payload,
`VIT_DECODE` or `HARD_PACK`, and `RS_DECODE`, each as its row answers alone and only if `MODE` enables it; the bytes of the last
stage, `B_out` of them, are queued with `MAKE_TAG` of the deframer's `FLAG` and `LOCK`, the marks and the bit-error count; the
counters follow R255; and nothing else changes (log 7; the rows' answers log 6). Of the checks of `START` only the marker being
shorter than the frame is asked of the frame length. -/
def Obligations.FrameEmitQueuesOneFrame : Prop :=
  ∀ s : State, s.run = .running → s.deframer.phase = .collect → s.avail = s.deframer.pos + framePeriod s.cfg →
    markerLen s.cfg < framePeriod s.cfg → (∀ k, k ≠ 2 → ¬ StartCheckFails s.cfg k) →
    s.counters.rsCorrTotal.length = 8 →
    let p := s.deframer.pos
    let u := corrected s.cfg s.soft s.deframer.hyp
    let m := (List.range (markerLen s.cfg)).map fun i => u (p + i)
    let x := (List.range (framePeriod s.cfg - markerLen s.cfg)).map fun j => u (p + markerLen s.cfg + j)
    ∃ (y z : List Soft) (last : Bool) (raw : List Byte) (ber : Nat) (pm : List Nat) (out : List Byte) (count : List Nat)
      (uncorr : List Bool),
      (if s.cfg.mode.getLsbD 2 then exec (.derand x) s = .next { s with answer := .softs y } else y = x)
        ∧ DiffOf (s.cfg.mode.extractLsb' 3 2).toNat s.lastBit m y z last
        ∧ (if s.cfg.mode.getLsbD 5 then exec (.vitDecode z) s = .next { s with pm := pm, answer := .decoded raw ber }
          else exec (.hardPack z) s = .next { s with answer := .bytes raw } ∧ ber = 0 ∧ pm = s.pm)
        ∧ (if s.cfg.mode.getLsbD 6 then
            exec (if s.cfg.mode.getLsbD 7 then .rsDecode239 raw else .rsDecode223 raw) s
              = .next { s with answer := .corrected out count uncorr }
          else out = raw ∧ count = [] ∧ uncorr = [])
        ∧ out.length = bytesOut s.cfg
        ∧ let tag := makeTag s.cfg s.deframer.flag s.deframer.lock uncorr ber
          let corr := fun b : Nat =>
            if s.cfg.mode.getLsbD 6 ∧ b < (s.cfg.mode.extractLsb' 10 4).toNat then BitVec.ofNat 32 (count.getD b 0) else 0
          exec .frameEmit s
            = .next
                { s with
                  lastBit := last, pm := pm, queue := s.queue ++ [{ bytes := out, tag := tag }]
                  counters :=
                    { s.counters with
                      framesEmitted := s.counters.framesEmitted + 1
                      mismatchFrames := s.counters.mismatchFrames + (if s.deframer.flag then 1 else 0)
                      rsUncorrFrames :=
                        s.counters.rsUncorrFrames + (if s.cfg.mode.getLsbD 6 ∧ true ∈ uncorr then 1 else 0)
                      lastVitBer := BitVec.ofNat 32 ber
                      lastTag := tag
                      rsCorrLast := (List.range 8).map corr
                      rsCorrTotal := (List.range 8).map fun b => s.counters.rsCorrTotal.getD b 0 + corr b } }

/-- R254 with R89: the fields of a tag, for each lock state. A frame is never emitted in `NO_SYNC` (R254), and the 0 that the LOCK
field would then hold is the model's (log 24). -/
def Obligations.TagFields : Prop :=
  ∀ (c : CfgRegs) (flag : Bool) (lock : Lock) (uncorr : List Bool) (ber : Nat), uncorr.length ≤ 8 →
    let tag := makeTag c flag lock uncorr ber
    tag.getLsbD 0 = flag
      ∧ (tag.getLsbD 1 = true ↔ rsEn c = true ∧ true ∈ uncorr)
      ∧ tag.getLsbD 2 = rsEn c
      ∧ tag.getLsbD 3 = vitEn c
      ∧ (tag.extractLsb' 4 2).toNat = (match lock with | .noSync => 0 | .syncing => 1 | .synced => 2)
      ∧ tag.extractLsb' 6 2 = 0
      ∧ (∀ b, b < 8 → tag.getLsbD (8 + b) = (rsEn c && uncorr.getD b false))
      ∧ (tag.extractLsb' 16 16).toNat = (if vitEn c then min ber 0xFFFF else 0)

/-- R250's corner case: with every stage off the frame is the hard decisions of the corrected payload. -/
def Obligations.UncodedFrameIsHardPayload : Prop :=
  ∀ s : State, s.run = .running → s.deframer.phase = .collect → s.avail = s.deframer.pos + framePeriod s.cfg →
    ConfigLegal s.cfg → derandEn s.cfg = false → diffMode s.cfg = 0 → vitEn s.cfg = false → rsEn s.cfg = false →
    ∃ (t : State) (f : Frame), exec .frameEmit s = .next t ∧ t.queue = s.queue ++ [f]
      ∧ f.bytes.length = (framePeriod s.cfg - markerLen s.cfg) / 8
      ∧ ∀ k i, k < f.bytes.length → i < 8 →
          (f.bytes.getD k 0).getLsbD (7 - i)
            = hard (corrected s.cfg s.soft s.deframer.hyp (s.deframer.pos + markerLen s.cfg + (8 * k + i)))

/-- R252: packing, the first bit of each eight most significant. -/
def Obligations.HardPackBits : Prop :=
  ∀ (s : State) (z : List Soft), z.length % 8 = 0 →
    ∃ bs : List Byte, exec (.hardPack z) s = .next { s with answer := .bytes bs } ∧ bs.length = z.length / 8
      ∧ ∀ k i, k < bs.length → i < 8 → (bs.getD k 0).getLsbD (7 - i) = hard (z.getD (8 * k + i) 0)

/-! ## Derandomizer and differential decoder -/

/-- R182: each payload value is complemented exactly where the pseudo-noise bit is 1. -/
def Obligations.DerandResult : Prop :=
  ∀ (s : State) (x : List Soft),
    ∃ y : List Soft, exec (.derand x) s = .next { s with answer := .softs y } ∧ y.length = x.length
      ∧ ∀ (j : Nat) (hx : j < x.length) (hy : j < y.length),
          y[j] = (if (pnTable.getD (j / 8 % 255) 0).toNat / 2 ^ (7 - j % 8) % 2 = 1 then ~~~ x[j] else x[j])

/-- R183: on the hard view, derandomizing XORs each payload byte with the pseudo-noise byte. -/
def Obligations.DerandXorsHardBytes : Prop :=
  ∀ (x : List Soft) (k : Nat), x.length % 8 = 0 → k < x.length / 8 →
    (hardPack (derandomize x)).getD k 0 = (hardPack x).getD k 0 ^^^ pnTable.getD (k % 255) 0

/-- R184: derandomizing is an involution. -/
def Obligations.DerandIsInvolution : Prop := ∀ x : List Soft, derandomize (derandomize x) = x

/-- R185 and R186: the outputs of the two differential decoders, and `LASTBIT` after. -/
def Obligations.NrzResults : Prop :=
  ∀ (s : State) (y : Soft),
    exec (.nrzm y) s
        = .next { s with lastBit := hard y, answer := .soft (if s.lastBit then ~~~ y else y) }
      ∧ exec (.nrzs y) s
        = .next { s with lastBit := hard y, answer := .soft (if s.lastBit then y else ~~~ y) }
      ∧ hard (nrzmOut s.lastBit y) = (hard y ^^ s.lastBit)
      ∧ hard (nrzsOut s.lastBit y) = !(hard y ^^ s.lastBit)

/-- R189: after a marker of at least one bit, what `LASTBIT` held before the frame does not matter. -/
def Obligations.DiffIgnoresEarlierLastBit : Prop :=
  ∀ (mode : Nat) (l1 l2 : Bool) (m : Soft) (marker payload : List Soft), mode ≠ 0 →
    diffFrame mode l1 (m :: marker) payload = diffFrame mode l2 (m :: marker) payload

/-- R190: complementing every value of a frame leaves the differential decoder's payload outputs unchanged. -/
def Obligations.DiffRemovesInversion : Prop :=
  ∀ (mode : Nat) (last : Bool) (m : Soft) (marker payload : List Soft), mode ≠ 0 →
    (diffFrame mode last ((m :: marker).map inv8) (payload.map inv8)).1
      = (diffFrame mode last (m :: marker) payload).1

/-! ## Viterbi decoder -/

/-- R208 with R203 to R206: under a legal code the bytes are the packed message of a path of least cost through the whole frame
(among those of least cost, the states from the final one back are the least in order), the count is the number of hard
decisions that differ from that path's code bits, and a kept metric is the least cost of a path into its state less the least of
all; nothing else changes. The metrics beyond the code's states are 0 by the model's choice (log 14). -/
def Obligations.VitDecodeResult : Prop :=
  ∀ (s : State) (z : List Soft), codeLegal (vitCode s.cfg) = true → z.length % 16 = 0 →
    ∃ (bs : List Byte) (ber : Nat) (pm : List Nat),
      exec (.vitDecode z) s = .next { s with pm := pm, answer := .decoded bs ber }
        ∧ bs.length = z.length / 16 ∧ ber ≤ z.length
        ∧ (z ≠ [] → pm.length = 256 ∧ ∃ st, st < 2 ^ ((vitCode s.cfg).k - 1) ∧ pm.getD st 1 = 0)
        ∧ (z ≠ [] →
          let code := vitCode s.cfg
          let states := 2 ^ (code.k - 1)
          let cost := pathCost code s.pm z
          ∃ (st : Nat) (msg : List Bool), st < states ∧ msg.length = z.length / 2
            ∧ (∀ k i, k < bs.length → i < 8 → (bs.getD k 0).getLsbD (7 - i) = msg.getD (8 * k + i) false)
            ∧ ber = (((pathBits code st msg).zip z).filter fun p => p.1 != decide (0 ≤ p.2.toInt)).length
            ∧ (∀ (st' : Nat) (msg' : List Bool), st' < states → msg'.length = msg.length →
                cost st msg ≤ cost st' msg'
                  ∧ (cost st' msg' = cost st msg → pathStates code st msg ≤ pathStates code st' msg'))
            ∧ (∀ e, e < states →
                (∃ (st' : Nat) (msg' : List Bool), st' < states ∧ msg'.length = msg.length
                  ∧ (pathStates code st' msg').head? = some e ∧ cost st' msg' = cost st msg + pm.getD e 0)
                ∧ ∀ (st' : Nat) (msg' : List Bool), st' < states → msg'.length = msg.length →
                    (pathStates code st' msg').head? = some e → cost st msg + pm.getD e 0 ≤ cost st' msg')
            ∧ ∀ e, states ≤ e → pm.getD e 0 = 0)

/-- R209 for a session's first frame (all metrics 0; log 17): a clean and uniquely explained frame decodes to its message with
no bit errors. -/
def Obligations.ViterbiRecoversCleanFrame : Prop :=
  ∀ (s : State) (z : List Soft) (st : Nat) (msg : List Bool),
    codeLegal (vitCode s.cfg) = true → (∀ q, s.pm.getD q 0 = 0) → st < 2 ^ ((vitCode s.cfg).k - 1) →
    z.length = 2 * msg.length →
    (pairsOf z).map (fun y => (hard y.1, hard y.2)) = encodeFrom (vitCode s.cfg) st msg →
    (∀ (st' : Nat) (msg' : List Bool), st' < 2 ^ ((vitCode s.cfg).k - 1) → msg'.length = msg.length →
      encodeFrom (vitCode s.cfg) st' msg' = encodeFrom (vitCode s.cfg) st msg → st' = st ∧ msg' = msg) →
    ∃ pm, exec (.vitDecode z) s = .next { s with pm := pm, answer := .decoded (packBits msg) 0 }

/-! ## Reed-Solomon decoder -/

/-- R233: an accepted word is always a codeword, at the reported distance, within the correction capability. -/
def Obligations.RsAcceptedWordIsCodeword : Prop :=
  ∀ (profile : Bool) (r c : List Byte) (k : Nat), r.length = 255 →
    rsCwDecode (rsCapability profile) r = some (c, k) →
      c.length = 255 ∧ isCodeword (rsCapability profile) c = true ∧ hamming r c = k ∧ k ≤ rsCapability profile

/-- R228: bounded-distance decoding answers exactly the codeword within `t` of the received word with its distance, and nothing
where there is none. -/
def Obligations.RsDecodesWithinCapability : Prop :=
  ∀ (profile : Bool) (r c : List Byte) (k : Nat), r.length = 255 →
    (rsCwDecode (rsCapability profile) r = some (c, k) ↔
      c.length = 255 ∧ isCodeword (rsCapability profile) c = true ∧ hamming r c = k ∧ k ≤ rsCapability profile)

/-- R232 with parity kept and R228: every branch becomes a codeword within `t`, with its distance as count, or stays as received
with count 0, and it is marked uncorrectable exactly where no codeword lies within `t` of the received branch; the codewords are
interleaved and in the wire's basis. -/
def Obligations.RsFrameBranches : Prop :=
  ∀ (s : State) (profile : Bool) (frame : List Byte), 1 ≤ rsDepth s.cfg → rsDepth s.cfg ≤ 8 →
    frame.length = 255 * rsDepth s.cfg → rsKeepParity s.cfg = true →
    ∃ (out : List Byte) (count : List Nat) (uncorr : List Bool),
      exec (if profile then .rsDecode239 frame else .rsDecode223 frame) s
          = .next { s with answer := .corrected out count uncorr }
        ∧ out.length = frame.length ∧ count.length = rsDepth s.cfg ∧ uncorr.length = rsDepth s.cfg
        ∧ ∀ b, b < rsDepth s.cfg →
            (uncorr.getD b false = true ↔
              ∀ c : List Byte, c.length = 255 → isCodeword (rsCapability profile) c = true →
                rsCapability profile < hamming (branchOf s.cfg b frame) c)
            ∧ (uncorr.getD b false = true → count.getD b 0 = 0
              ∧ ∀ j, j < 255 → out.getD (j * rsDepth s.cfg + b) 0 = frame.getD (j * rsDepth s.cfg + b) 0)
            ∧ (uncorr.getD b false = false →
              isCodeword (rsCapability profile) (branchOf s.cfg b out) = true
                ∧ hamming (branchOf s.cfg b frame) (branchOf s.cfg b out) = count.getD b 0
                ∧ count.getD b 0 ≤ rsCapability profile)

/-- R232's last step: without parity the output is the first `k · I` bytes of what the same row answers with `RS_KEEP_PARITY`
(bit 9 of `MODE`) set; its counts and marks are those that decoding each branch gives (R228). -/
def Obligations.RsParityDropTruncates : Prop :=
  ∀ (s : State) (profile : Bool) (frame : List Byte), 1 ≤ rsDepth s.cfg → rsDepth s.cfg ≤ 8 →
    frame.length = 255 * rsDepth s.cfg → rsKeepParity s.cfg = false →
    let row : Instr := if profile then .rsDecode239 frame else .rsDecode223 frame
    let keep : State := { s with cfg := { s.cfg with mode := s.cfg.mode ||| 0x200 } }
    ∃ (out : List Byte) (count : List Nat) (uncorr : List Bool),
      rsDecodeFrame { s.cfg with mode := s.cfg.mode ||| 0x200 } profile frame
          = { bytes := out, count := count, uncorr := uncorr }
        ∧ exec row keep = .next { keep with answer := .corrected out count uncorr }
        ∧ exec row s
          = .next
              { s with
                answer := .corrected (out.take ((if profile then 239 else 223) * rsDepth s.cfg)) count uncorr }
        ∧ ∀ b, b < rsDepth s.cfg →
            (uncorr.getD b true = true ↔ rsCwDecode (rsCapability profile) (branchOf s.cfg b frame) = none)
              ∧ ∀ (c : List Byte) (k : Nat), rsCwDecode (rsCapability profile) (branchOf s.cfg b frame) = some (c, k) →
                  count.getD b 0 = k ∧ uncorr.getD b true = false ∧ branchOf s.cfg b out = c

/-! ## Operations that are not selected -/

/-- The model's choice (log 7, 8): an operation that its rules do not select changes nothing. These are a deframer row away from
its bit, and a decoder under a code or a geometry that `START` refuses. -/
def Obligations.UnselectedOperationsChangeNothing : Prop :=
  ∀ s : State,
    (¬ (s.run = .running ∧ s.deframer.phase = .search ∧ s.avail = s.deframer.pos + markerLen s.cfg) →
        exec .acqEval s = .next s)
      ∧ (¬ (s.run = .running ∧ s.deframer.phase = .check ∧ s.avail = s.deframer.pos + markerLen s.cfg) →
        exec .checkEval s = .next s)
      ∧ (¬ (s.run = .running ∧ s.deframer.phase = .collect ∧ s.avail = s.deframer.pos + framePeriod s.cfg) →
        exec .collect s = .next s ∧ exec .frameEmit s = .next s)
      ∧ (∀ z : List Soft, codeLegal (vitCode s.cfg) = false → exec (.vitDecode z) s = .next s)
      ∧ (∀ frame : List Byte, ¬ (1 ≤ rsDepth s.cfg ∧ rsDepth s.cfg ≤ 8 ∧ frame.length = 255 * rsDepth s.cfg) →
        exec (.rsDecode223 frame) s = .next s ∧ exec (.rsDecode239 frame) s = .next s)

/-! ## The whole machine -/

/-- The machine's invariant holds at reset, whatever is offered. -/
def Obligations.MachineInvariantAtReset : Prop := ∀ os : List Offer, MachineInv { State.reset with offers := os }

/-- Every step keeps the machine's invariant: R169, R120, R253, R45 and R21 among its parts. -/
def Obligations.StepKeepsMachineInvariant : Prop :=
  ∀ s t : State, MachineInv s → step s = .next t → MachineInv t

/-- Whatever the agents offer, the output queue never exceeds its capacity and the deframer's invariants hold (R120, R169). -/
def Obligations.EveryRunStaysSafe : Prop :=
  ∀ (os : List Offer) (t : State), Reaches { State.reset with offers := os } t →
    t.queue.length ≤ Config.outCap ∧ DeframerInv t ∧ (∀ f ∈ t.queue, f.bytes.length = bytesOut t.cfg)

/-- R281: the run-state transitions are exactly the table's. -/
def Obligations.RunStateTransitionsComplete : Prop :=
  (∀ (i : Instr) (s t : State), exec i s = .next t → t.run ≠ s.run →
      (s.run = .idle ∧ t.run = .running ∧ ConfigLegal s.cfg ∧ IsCommand i .start 1)
        ∨ (s.run = .running ∧ t.run = .done ∧ ∃ d, i = .symLast d)
        ∨ ((s.run = .running ∨ s.run = .done) ∧ t.run = .stopped ∧ IsCommand i .stop 2)
        ∨ (t.run = .idle ∧ IsCommand i .softReset 3))
    ∧ (∀ (i : Instr) (s : State),
        (s.run = .idle → ConfigLegal s.cfg → IsCommand i .start 1 → ∃ t, exec i s = .next t ∧ t.run = .running)
          ∧ (s.run = .running → inReady s = true → ∀ d, i = .symLast d → ∃ t, exec i s = .next t ∧ t.run = .done)
          ∧ (s.run = .running ∨ s.run = .done → IsCommand i .stop 2 → ∃ t, exec i s = .next t ∧ t.run = .stopped)
          ∧ (IsCommand i .softReset 3 → ∃ t, exec i s = .next t ∧ t.run = .idle))
    ∧ ∀ s : State, (hardReset s).run = .idle

/-- R336 and R45: the configuration changes only by a host write to one of its registers in `IDLE`. -/
def Obligations.ConfigurationChangesOnlyInIdle : Prop :=
  ∀ (i : Instr) (s t : State), exec i s = .next t → t.cfg ≠ s.cfg →
    s.run = .idle ∧ t = { s with cfg := t.cfg }
      ∧ ∃ (off : BitVec 12) (v : Word), i = .write off v ∧ 0x010 ≤ off.toNat ∧ off.toNat ≤ 0x030

/-- R71 with R256: frames leave the queue at its head by `POP`, enter at its tail one a beat, and are dropped only by `STOP` and
`SOFT_RESET`. -/
def Obligations.QueueIsFifo : Prop :=
  ∀ (i : Instr) (s t : State), MachineInv s → exec i s = .next t →
    t.queue = s.queue
      ∨ (i = .pop ∧ t.queue = s.queue.tail)
      ∨ (((∃ d, i = .sym d) ∨ (∃ d, i = .symLast d)) ∧ ∃ f, t.queue = s.queue ++ [f])
      ∨ ((IsCommand i .stop 2 ∨ IsCommand i .softReset 3) ∧ t.queue = [])

/-- R44 and R306: an error bit, once set, is cleared only by `CLEAR_ERRORS` and `SOFT_RESET`; `CFG_FAIL` is rewritten only by a
failing `START` besides. -/
def Obligations.ErrorBitsAreSticky : Prop :=
  ∀ (i : Instr) (s t : State), exec i s = .next t → ¬ IsCommand i .clearErrors 6 → ¬ IsCommand i .softReset 3 →
    (s.errors.cfgErr = true → t.errors.cfgErr = true)
      ∧ (s.errors.cmdErr = true → t.errors.cmdErr = true)
      ∧ (s.errors.wrErr = true → t.errors.wrErr = true)
      ∧ (s.errors.aborted = true → t.errors.aborted = true)
      ∧ (t.errors.cfgFail ≠ s.errors.cfgFail → s.run = .idle ∧ t.errors.cfgErr = true
          ∧ (IsCommand i .start 1 ∨ i = .diffReserved))
end

