-- ==== Sys2Proof/Laws/Codes.lean ====
section
/-! SUPPORT. Lengths and shapes of what the decoders give, and what each can answer. -/

namespace Sys2Proof.Machine

/-! ## Soft values -/

@[simp] theorem inv8_inv8 (x : Soft) : inv8 (inv8 x) = x := BitVec.not_not

@[simp] theorem hard_inv8 (x : Soft) : hard (inv8 x) = !hard x := by
  simp [hard, inv8, BitVec.msb_not]

theorem inv8_toInt (x : Soft) : (inv8 x).toInt = - x.toInt - 1 := by
  rw [inv8, BitVec.toInt_not]
  have := BitVec.toInt_lt (x := x)
  have := BitVec.le_toInt (x := x)
  simp only [Int.bmod_def]
  simp at *
  have := x.isLt
  rw [BitVec.toInt_eq_toNat_cond]
  split <;> split <;> omega

/-- `hard(s)` is 1 exactly where `s ≥ 0` (00_scope.md R12). -/
theorem hard_eq_decide (x : Soft) : hard x = decide (0 ≤ x.toInt) := by
  rw [hard, BitVec.msb_eq_toInt, ← decide_not]
  simp only [Int.not_lt]

/-! ## Packing -/

theorem packBits_cons8 (b0 b1 b2 b3 b4 b5 b6 b7 : Bool) (rest : List Bool) :
    packBits (b0 :: b1 :: b2 :: b3 :: b4 :: b5 :: b6 :: b7 :: rest)
      = byteOfBits [b0, b1, b2, b3, b4, b5, b6, b7] :: packBits rest := rfl

theorem packBits_length (bits : List Bool) : (packBits bits).length = bits.length / 8 := by
  induction bits using packBits.induct with
  | case1 b0 b1 b2 b3 b4 b5 b6 b7 rest ih =>
    simp only [packBits_cons8, List.length_cons, ih]
    omega
  | case2 bits h =>
    have : bits.length < 8 := by
      match bits, h with
      | [], _ => simp
      | [_], _ => simp
      | [_, _], _ => simp
      | [_, _, _], _ => simp
      | [_, _, _, _], _ => simp
      | [_, _, _, _, _], _ => simp
      | [_, _, _, _, _, _], _ => simp
      | [_, _, _, _, _, _, _], _ => simp
      | a :: b :: c :: d :: e :: f :: g :: i :: rest, h => exact absurd rfl (h a b c d e f g i rest)
    rw [packBits]
    · simp; omega
    · exact h

@[simp] theorem hardPack_length (z : List Soft) : (hardPack z).length = z.length / 8 := by
  rw [hardPack, packBits_length, List.length_map]

/-! ## Derandomizer and differential decoder -/

@[simp] theorem derandFrom_length (j : Nat) (x : List Soft) : (derandFrom j x).length = x.length := by
  induction x generalizing j with
  | nil => rfl
  | cons a x ih => simp [derandFrom, ih]

theorem derandFrom_getElem (j : Nat) (x : List Soft) (i : Nat) (hi : i < x.length) :
    (derandFrom j x)[i]'(by simpa using hi) = invIf (pnBit (j + i)) x[i] := by
  induction x generalizing j i with
  | nil => simp at hi
  | cons a x ih =>
    cases i with
    | zero => rfl
    | succ i =>
      simp only [derandFrom, List.getElem_cons_succ]
      rw [ih (j + 1) i (by simpa using hi)]
      congr 2
      omega

@[simp] theorem diffRun_length (mode : Nat) (last : Bool) (y : List Soft) :
    (diffRun mode last y).1.length = y.length := by
  induction y generalizing last with
  | nil => rfl
  | cons a y ih => simp [diffRun, ih]

/-- `LASTBIT` after a non-empty list of values is the hard decision of the last (R185, R186). -/
theorem diffRun_last (mode : Nat) (last : Bool) (y : List Soft) (h : y ≠ []) :
    (diffRun mode last y).2 = hard (y.getD (y.length - 1) 0) := by
  induction y generalizing last with
  | nil => exact absurd rfl h
  | cons a y ih =>
    rw [diffRun]
    cases y with
    | nil => rfl
    | cons b y => rw [ih _ (by simp)]; simp

/-- Output `j` is the decoder's step on value `j` after the hard decision of the value before it (R185, R186). -/
theorem diffRun_getD (mode : Nat) (last : Bool) (y : List Soft) (j : Nat) (hj : j < y.length) :
    (diffRun mode last y).1.getD j 0
      = diffOut mode (if j = 0 then last else hard (y.getD (j - 1) 0)) (y.getD j 0) := by
  induction y generalizing last j with
  | nil => simp at hj
  | cons a y ih =>
    cases j with
    | zero => simp [diffRun]
    | succ j =>
      simp only [diffRun, List.getD_cons_succ]
      rw [ih _ _ (by simpa using hj)]
      cases j <;> simp

/-! ## Viterbi decoder -/

theorem acs_length (code : VitCode) (pm : List Nat) (y : Soft × Soft) :
    (acs code pm y).1.length = stateCount code ∧ (acs code pm y).2.length = stateCount code := by
  simp [acs]

@[simp] theorem pairsOf_length (z : List Soft) : (pairsOf z).length = z.length / 2 := by
  induction z using pairsOf.induct with
  | case1 a b rest ih => simp [pairsOf, ih]; omega
  | case2 z h =>
    match z, h with
    | [], _ => rfl
    | [_], _ => simp [pairsOf]
    | a :: b :: rest, h => exact absurd rfl (h a b rest)

@[simp] theorem encodeFrom_length (code : VitCode) (st : Nat) (msg : List Bool) :
    (encodeFrom code st msg).length = msg.length := by
  induction msg generalizing st with
  | nil => rfl
  | cons u msg ih => simp [encodeFrom, ih]

theorem traceback_length (code : VitCode) (st : Nat) (ds : List (List Bool)) (bits : List Bool) :
    (traceback code st ds bits).1.length = ds.length + bits.length := by
  induction ds generalizing st bits with
  | nil => simp [traceback]
  | cons d ds ih =>
    rw [traceback, ih]
    simp only [List.length_cons]
    omega

theorem acsRun_length (code : VitCode) (pm : List Nat) (ys : List (Soft × Soft)) (ds : List (List Bool)) :
    (acsRun code pm ys ds).2.length = ys.length + ds.length := by
  induction ys generalizing pm ds with
  | nil => simp [acsRun]
  | cons y ys ih =>
    rw [acsRun, ih]
    simp only [List.length_cons]
    omega

theorem vitPath_length (code : VitCode) (pm : List Nat) (z : List Soft) :
    (vitPath code pm z).1.length = z.length / 2 := by
  simp [vitPath, traceback_length, acsRun_length]

/-- Viterbi decoding gives half as many bits as values, packed. -/
theorem vitDecode_bytes_length (code : VitCode) (pm : List Nat) (z : List Soft) :
    (vitDecode code pm z).bytes.length = z.length / 16 := by
  simp only [vitDecode, packBits_length, vitPath_length]
  omega

/-! ## Reed-Solomon decoder -/

theorem tal_inverse_rows :
    talTable.map tal1Tab = (List.range 256).map (BitVec.ofNat 8)
      ∧ tal1Table.map talTab = (List.range 256).map (BitVec.ofNat 8) := by
  decide +kernel

theorem tal_inverse (a : Byte) : tal1Tab (talTab a) = a ∧ talTab (tal1Tab a) = a := by
  have ha := a.isLt
  have key : ∀ (t : List Byte) (f : Byte → Byte), t.length = 256 → t.map f = (List.range 256).map (BitVec.ofNat 8) →
      f (t.getD a.toNat 0) = a := by
    intro t f hl h
    have hi := congrArg (fun l => l[a.toNat]?) h
    simpa [List.getD_eq_getElem?_getD, hl, ha] using hi
  exact ⟨key _ _ (by decide +kernel) tal_inverse_rows.1, key _ _ (by decide +kernel) tal_inverse_rows.2⟩

@[simp] theorem fromWire_toWire (dual : Bool) (a : Byte) : fromWire dual (toWire dual a) = a := by
  cases dual
  · rfl
  · exact (tal_inverse a).1

@[simp] theorem everyNth_length (depth count k : Nat) (rest : List Byte) :
    (everyNth depth count k rest).length = count := by
  induction count generalizing k rest with
  | zero => rfl
  | succ c ih => simp [everyNth, ih]

theorem everyNth_getElem (depth count k j : Nat) (rest : List Byte) (hj : j < count) :
    (everyNth depth count k rest)[j]'(by simpa using hj)
      = rest.getD (j * depth) (Config.beyondByte (k + j * depth)) := by
  induction count generalizing k j rest with
  | zero => omega
  | succ c ih =>
    cases j with
    | zero => cases rest <;> simp [everyNth]
    | succ j =>
      simp only [everyNth, List.getElem_cons_succ]
      rw [ih (k + depth) j _ (by omega)]
      simp only [List.getD_eq_getElem?_getD, List.getElem?_drop, Nat.succ_mul]
      rw [Nat.add_comm depth (j * depth), Nat.add_assoc, Nat.add_comm depth (j * depth)]

@[simp] theorem branchWord_length (depth b : Nat) (frame : List Byte) : (branchWord depth b frame).length = 255 := by
  simp [branchWord]

/-- Symbol `j` of branch `b` is byte `j · I + b` of the frame (R230). -/
theorem branchWord_getElem (depth b j : Nat) (frame : List Byte) (hj : j < 255) :
    (branchWord depth b frame)[j]'(by simpa using hj)
      = frame.getD (j * depth + b) (Config.beyondByte (j * depth + b)) := by
  simp only [branchWord, everyNth_getElem depth 255 b j _ hj, List.getD_eq_getElem?_getD, List.getElem?_drop]
  rw [Nat.add_comm b]

theorem roundRobin_length (count : Nat) (words : List (List Byte)) :
    (roundRobin count words).length = count * words.length := by
  induction count generalizing words with
  | zero => simp [roundRobin]
  | succ c ih => simp [roundRobin, ih, Nat.succ_mul, Nat.add_comm]

theorem roundRobin_getD (count j b : Nat) (words : List (List Byte)) (hb : b < words.length) (hj : j < count) :
    (roundRobin count words).getD (j * words.length + b) 0 = (words.getD b []).getD j 0 := by
  induction count generalizing words j with
  | zero => omega
  | succ c ih =>
    cases j with
    | zero =>
      simp only [roundRobin, Nat.zero_mul, Nat.zero_add, List.getD_eq_getElem?_getD]
      rw [List.getElem?_append_left (by simpa using hb)]
      simp [hb, List.head?_eq_getElem?]
    | succ j =>
      have key := ih j (words.map List.tail) (by simpa using hb) (by omega)
      simp only [roundRobin, List.getD_eq_getElem?_getD, List.length_map] at key ⊢
      rw [List.getElem?_append_right (by simp [Nat.succ_mul]; omega)]
      rw [List.length_map, show (j + 1) * words.length + b - words.length = j * words.length + b by
        rw [Nat.succ_mul]; omega, key]
      simp [hb]

@[simp] theorem interleave_length (words : List (List Byte)) : (interleave words).length = 255 * words.length :=
  roundRobin_length 255 words

/-- Byte `j · I + b` of the frame is symbol `j` of branch `b` (R230, R232). -/
theorem interleave_getD (words : List (List Byte)) (j b : Nat) (hb : b < words.length) (hj : j < 255) :
    (interleave words).getD (j * words.length + b) 0 = (words.getD b []).getD j 0 :=
  roundRobin_getD 255 j b words hb hj

/-- Multiplication with the shortcut for `b = 0` left out. -/
theorem gmul_eq (a b : Byte) :
    gmul a b = [7, 6, 5, 4, 3, 2, 1, 0].foldl (fun acc i => xtime acc ^^^ (if b.getLsbD i then a else 0)) 0 := by
  unfold gmul
  split
  · next h => subst h; simp [xtime]
  · rfl

/-- What decoding one codeword can answer. -/
theorem rsCwDecode_cases (e : Nat) (r : List Byte) :
    (isCodeword e r = true ∧ rsCwDecode e r = some (r, 0))
      ∨ (isCodeword e r = false
        ∧ ((∃ w, candidate e r = some w ∧ isCodeword e w = true ∧ hamming r w ≤ e
              ∧ rsCwDecode e r = some (w, hamming r w))
          ∨ rsCwDecode e r = none)) := by
  unfold rsCwDecode
  cases hc : isCodeword e r with
  | true => simp
  | false =>
    refine .inr ⟨rfl, ?_⟩
    cases hk : candidate e r with
    | none => simp
    | some w =>
      by_cases h : isCodeword e w = true ∧ hamming r w ≤ e
      · exact .inl ⟨w, rfl, h.1, h.2, by simp [h]⟩
      · exact .inr (by simp [h])

/-- What decoding one branch can give. -/
theorem decodeBranch_cases (e : Nat) (dual : Bool) (wire : List Byte) :
    (∃ w k, rsCwDecode e (wire.map (fromWire dual)) = some (w, k)
        ∧ decodeBranch e dual wire = { word := w.map (toWire dual), count := k, uncorr := false })
      ∨ (rsCwDecode e (wire.map (fromWire dual)) = none
        ∧ decodeBranch e dual wire = { word := wire, count := 0, uncorr := true }) := by
  unfold decodeBranch
  cases h : rsCwDecode e (wire.map (fromWire dual)) with
  | none => simp
  | some p => exact .inl ⟨p.1, p.2, rfl, rfl⟩

theorem applyErrors_length (r : List Byte) (positions : List Nat) (value : Nat → Byte) :
    (applyErrors r positions value).length = r.length := by
  unfold applyErrors
  induction positions generalizing r with
  | nil => rfl
  | cons j positions ih => rw [List.foldl_cons, ih, List.length_modify]

/-- A word that decoding answers has the received word's length. -/
theorem rsCwDecode_length {e : Nat} {r c : List Byte} {k : Nat} (h : rsCwDecode e r = some (c, k)) :
    c.length = r.length := by
  rcases rsCwDecode_cases e r with ⟨_, h'⟩ | ⟨_, ⟨w, hw, _, _, h'⟩ | h'⟩ <;> rw [h] at h' <;> simp at h'
  · rw [h'.1]
  · rw [h'.1]
    unfold candidate at hw
    dsimp only at hw
    split at hw
    · cases hw
    · split at hw <;> cases hw
      rw [applyErrors_length]

/-- The mark of branch `b` of a frame is that of the branch decoded alone (R232). -/
theorem rsDecodeFrame_uncorr_getD (c : CfgRegs) (profile : Bool) (frame : List Byte) (b : Nat) (dflt : Bool)
    (hb : b < rsDepth c) :
    (rsDecodeFrame c profile frame).uncorr.getD b dflt
      = (decodeBranch (rsCapability profile) (rsDual c) (branchWord (rsDepth c) b frame)).uncorr := by
  simp [rsDecodeFrame, List.getD_eq_getElem?_getD, hb]

/-- The count of branch `b` of a frame is that of the branch decoded alone (R232). -/
theorem rsDecodeFrame_count_getD (c : CfgRegs) (profile : Bool) (frame : List Byte) (b dflt : Nat)
    (hb : b < rsDepth c) :
    (rsDecodeFrame c profile frame).count.getD b dflt
      = (decodeBranch (rsCapability profile) (rsDual c) (branchWord (rsDepth c) b frame)).count := by
  simp [rsDecodeFrame, List.getD_eq_getElem?_getD, hb]

/-- With parity kept, byte `j · I + b` is symbol `j` of branch `b` decoded alone (R232). -/
theorem rsDecodeFrame_bytes_getD (c : CfgRegs) (profile : Bool) (frame : List Byte) (b j : Nat) (hb : b < rsDepth c)
    (hk : rsKeepParity c = true) (hj : j < 255) :
    (rsDecodeFrame c profile frame).bytes.getD (j * rsDepth c + b) 0
      = (decodeBranch (rsCapability profile) (rsDual c) (branchWord (rsDepth c) b frame)).word.getD j 0 := by
  have h := interleave_getD
    (((List.range (rsDepth c)).map fun b =>
      decodeBranch (rsCapability profile) (rsDual c) (branchWord (rsDepth c) b frame)).map BranchResult.word)
    j b (by simpa using hb) hj
  simp only [List.length_map, List.length_range] at h
  simp only [rsDecodeFrame, hk, if_true]
  rw [h]
  simp [List.getD_eq_getElem?_getD, hb]

/-- What Reed-Solomon decoding of a frame gives, by lengths. -/
theorem rsDecodeFrame_lengths (c : CfgRegs) (profile : Bool) (frame : List Byte) :
    (rsDecodeFrame c profile frame).bytes.length
        = (if rsKeepParity c then 255 else rsDataLen profile) * rsDepth c
      ∧ (rsDecodeFrame c profile frame).count.length = rsDepth c
      ∧ (rsDecodeFrame c profile frame).uncorr.length = rsDepth c := by
  refine ⟨?_, by simp [rsDecodeFrame], by simp [rsDecodeFrame]⟩
  have hk : rsDataLen profile ≤ 255 := Nat.sub_le _ _
  unfold rsDecodeFrame
  cases rsKeepParity c
  · simp [hk]
  · simp

end Sys2Proof.Machine
end

