-- ==== Sys2Proof/Laws/State.lean ====
section
/-! SUPPORT. One lemma per field per update of State, so that no later proof unfolds a record update. -/

namespace Sys2Proof.Machine

/-! ### withAnswer -/
@[simp] theorem withAnswer_cfg (a : Answer) (s : State) : (withAnswer a s).cfg = s.cfg := rfl
@[simp] theorem withAnswer_counters (a : Answer) (s : State) : (withAnswer a s).counters = s.counters := rfl
@[simp] theorem withAnswer_errors (a : Answer) (s : State) : (withAnswer a s).errors = s.errors := rfl
@[simp] theorem withAnswer_run (a : Answer) (s : State) : (withAnswer a s).run = s.run := rfl
@[simp] theorem withAnswer_deframer (a : Answer) (s : State) : (withAnswer a s).deframer = s.deframer := rfl
@[simp] theorem withAnswer_nv (a : Answer) (s : State) : (withAnswer a s).nv = s.nv := rfl
@[simp] theorem withAnswer_avail (a : Answer) (s : State) : (withAnswer a s).avail = s.avail := rfl
@[simp] theorem withAnswer_soft (a : Answer) (s : State) : (withAnswer a s).soft = s.soft := rfl
@[simp] theorem withAnswer_lastBit (a : Answer) (s : State) : (withAnswer a s).lastBit = s.lastBit := rfl
@[simp] theorem withAnswer_pm (a : Answer) (s : State) : (withAnswer a s).pm = s.pm := rfl
@[simp] theorem withAnswer_queue (a : Answer) (s : State) : (withAnswer a s).queue = s.queue := rfl
@[simp] theorem withAnswer_txPos (a : Answer) (s : State) : (withAnswer a s).txPos = s.txPos := rfl
@[simp] theorem withAnswer_answer (a : Answer) (s : State) : (withAnswer a s).answer = a := rfl
@[simp] theorem withAnswer_offers (a : Answer) (s : State) : (withAnswer a s).offers = s.offers := rfl

/-! ### clearErrorBits -/
@[simp] theorem clearErrorBits_cfg (s : State) : (clearErrorBits s).cfg = s.cfg := rfl
@[simp] theorem clearErrorBits_counters (s : State) : (clearErrorBits s).counters = s.counters := rfl
@[simp] theorem clearErrorBits_errors (s : State) : (clearErrorBits s).errors = errorsReset := rfl
@[simp] theorem clearErrorBits_run (s : State) : (clearErrorBits s).run = s.run := rfl
@[simp] theorem clearErrorBits_deframer (s : State) : (clearErrorBits s).deframer = s.deframer := rfl
@[simp] theorem clearErrorBits_nv (s : State) : (clearErrorBits s).nv = s.nv := rfl
@[simp] theorem clearErrorBits_avail (s : State) : (clearErrorBits s).avail = s.avail := rfl
@[simp] theorem clearErrorBits_soft (s : State) : (clearErrorBits s).soft = s.soft := rfl
@[simp] theorem clearErrorBits_lastBit (s : State) : (clearErrorBits s).lastBit = s.lastBit := rfl
@[simp] theorem clearErrorBits_pm (s : State) : (clearErrorBits s).pm = s.pm := rfl
@[simp] theorem clearErrorBits_queue (s : State) : (clearErrorBits s).queue = s.queue := rfl
@[simp] theorem clearErrorBits_txPos (s : State) : (clearErrorBits s).txPos = s.txPos := rfl
@[simp] theorem clearErrorBits_answer (s : State) : (clearErrorBits s).answer = s.answer := rfl
@[simp] theorem clearErrorBits_offers (s : State) : (clearErrorBits s).offers = s.offers := rfl

/-! ### setLastScore -/
@[simp] theorem setLastScore_cfg (x : Int) (s : State) : (setLastScore x s).cfg = s.cfg := rfl
@[simp] theorem setLastScore_counters (x : Int) (s : State) : (setLastScore x s).counters = { s.counters with lastScore := BitVec.ofInt 32 x } := rfl
@[simp] theorem setLastScore_errors (x : Int) (s : State) : (setLastScore x s).errors = s.errors := rfl
@[simp] theorem setLastScore_run (x : Int) (s : State) : (setLastScore x s).run = s.run := rfl
@[simp] theorem setLastScore_deframer (x : Int) (s : State) : (setLastScore x s).deframer = s.deframer := rfl
@[simp] theorem setLastScore_nv (x : Int) (s : State) : (setLastScore x s).nv = s.nv := rfl
@[simp] theorem setLastScore_avail (x : Int) (s : State) : (setLastScore x s).avail = s.avail := rfl
@[simp] theorem setLastScore_soft (x : Int) (s : State) : (setLastScore x s).soft = s.soft := rfl
@[simp] theorem setLastScore_lastBit (x : Int) (s : State) : (setLastScore x s).lastBit = s.lastBit := rfl
@[simp] theorem setLastScore_pm (x : Int) (s : State) : (setLastScore x s).pm = s.pm := rfl
@[simp] theorem setLastScore_queue (x : Int) (s : State) : (setLastScore x s).queue = s.queue := rfl
@[simp] theorem setLastScore_txPos (x : Int) (s : State) : (setLastScore x s).txPos = s.txPos := rfl
@[simp] theorem setLastScore_answer (x : Int) (s : State) : (setLastScore x s).answer = s.answer := rfl
@[simp] theorem setLastScore_offers (x : Int) (s : State) : (setLastScore x s).offers = s.offers := rfl

/-! ### countSyncError -/
@[simp] theorem countSyncError_cfg (s : State) : (countSyncError s).cfg = s.cfg := rfl
@[simp] theorem countSyncError_counters (s : State) : (countSyncError s).counters = { s.counters with syncErrors := s.counters.syncErrors + 1 } := rfl
@[simp] theorem countSyncError_errors (s : State) : (countSyncError s).errors = s.errors := rfl
@[simp] theorem countSyncError_run (s : State) : (countSyncError s).run = s.run := rfl
@[simp] theorem countSyncError_deframer (s : State) : (countSyncError s).deframer = s.deframer := rfl
@[simp] theorem countSyncError_nv (s : State) : (countSyncError s).nv = s.nv := rfl
@[simp] theorem countSyncError_avail (s : State) : (countSyncError s).avail = s.avail := rfl
@[simp] theorem countSyncError_soft (s : State) : (countSyncError s).soft = s.soft := rfl
@[simp] theorem countSyncError_lastBit (s : State) : (countSyncError s).lastBit = s.lastBit := rfl
@[simp] theorem countSyncError_pm (s : State) : (countSyncError s).pm = s.pm := rfl
@[simp] theorem countSyncError_queue (s : State) : (countSyncError s).queue = s.queue := rfl
@[simp] theorem countSyncError_txPos (s : State) : (countSyncError s).txPos = s.txPos := rfl
@[simp] theorem countSyncError_answer (s : State) : (countSyncError s).answer = s.answer := rfl
@[simp] theorem countSyncError_offers (s : State) : (countSyncError s).offers = s.offers := rfl

/-! ### pushFrame -/
@[simp] theorem pushFrame_cfg (f : Frame) (s : State) : (pushFrame f s).cfg = s.cfg := rfl
@[simp] theorem pushFrame_counters (f : Frame) (s : State) : (pushFrame f s).counters = s.counters := rfl
@[simp] theorem pushFrame_errors (f : Frame) (s : State) : (pushFrame f s).errors = s.errors := rfl
@[simp] theorem pushFrame_run (f : Frame) (s : State) : (pushFrame f s).run = s.run := rfl
@[simp] theorem pushFrame_deframer (f : Frame) (s : State) : (pushFrame f s).deframer = s.deframer := rfl
@[simp] theorem pushFrame_nv (f : Frame) (s : State) : (pushFrame f s).nv = s.nv := rfl
@[simp] theorem pushFrame_avail (f : Frame) (s : State) : (pushFrame f s).avail = s.avail := rfl
@[simp] theorem pushFrame_soft (f : Frame) (s : State) : (pushFrame f s).soft = s.soft := rfl
@[simp] theorem pushFrame_lastBit (f : Frame) (s : State) : (pushFrame f s).lastBit = s.lastBit := rfl
@[simp] theorem pushFrame_pm (f : Frame) (s : State) : (pushFrame f s).pm = s.pm := rfl
@[simp] theorem pushFrame_queue (f : Frame) (s : State) : (pushFrame f s).queue = s.queue ++ [f] := rfl
@[simp] theorem pushFrame_txPos (f : Frame) (s : State) : (pushFrame f s).txPos = s.txPos := rfl
@[simp] theorem pushFrame_answer (f : Frame) (s : State) : (pushFrame f s).answer = s.answer := rfl
@[simp] theorem pushFrame_offers (f : Frame) (s : State) : (pushFrame f s).offers = s.offers := rfl

/-! ### dropQueue -/
@[simp] theorem dropQueue_cfg (s : State) : (dropQueue s).cfg = s.cfg := rfl
@[simp] theorem dropQueue_counters (s : State) : (dropQueue s).counters = s.counters := rfl
@[simp] theorem dropQueue_errors (s : State) : (dropQueue s).errors = s.errors := rfl
@[simp] theorem dropQueue_run (s : State) : (dropQueue s).run = s.run := rfl
@[simp] theorem dropQueue_deframer (s : State) : (dropQueue s).deframer = s.deframer := rfl
@[simp] theorem dropQueue_nv (s : State) : (dropQueue s).nv = s.nv := rfl
@[simp] theorem dropQueue_avail (s : State) : (dropQueue s).avail = s.avail := rfl
@[simp] theorem dropQueue_soft (s : State) : (dropQueue s).soft = s.soft := rfl
@[simp] theorem dropQueue_lastBit (s : State) : (dropQueue s).lastBit = s.lastBit := rfl
@[simp] theorem dropQueue_pm (s : State) : (dropQueue s).pm = s.pm := rfl
@[simp] theorem dropQueue_queue (s : State) : (dropQueue s).queue = [] := rfl
@[simp] theorem dropQueue_txPos (s : State) : (dropQueue s).txPos = 0 := rfl
@[simp] theorem dropQueue_answer (s : State) : (dropQueue s).answer = s.answer := rfl
@[simp] theorem dropQueue_offers (s : State) : (dropQueue s).offers = s.offers := rfl

/-! ### clearMetrics -/
@[simp] theorem clearMetrics_cfg (s : State) : (clearMetrics s).cfg = s.cfg := rfl
@[simp] theorem clearMetrics_counters (s : State) : (clearMetrics s).counters = s.counters := rfl
@[simp] theorem clearMetrics_errors (s : State) : (clearMetrics s).errors = s.errors := rfl
@[simp] theorem clearMetrics_run (s : State) : (clearMetrics s).run = s.run := rfl
@[simp] theorem clearMetrics_deframer (s : State) : (clearMetrics s).deframer = s.deframer := rfl
@[simp] theorem clearMetrics_nv (s : State) : (clearMetrics s).nv = s.nv := rfl
@[simp] theorem clearMetrics_avail (s : State) : (clearMetrics s).avail = s.avail := rfl
@[simp] theorem clearMetrics_soft (s : State) : (clearMetrics s).soft = s.soft := rfl
@[simp] theorem clearMetrics_lastBit (s : State) : (clearMetrics s).lastBit = s.lastBit := rfl
@[simp] theorem clearMetrics_pm (s : State) : (clearMetrics s).pm = pmReset := rfl
@[simp] theorem clearMetrics_queue (s : State) : (clearMetrics s).queue = s.queue := rfl
@[simp] theorem clearMetrics_txPos (s : State) : (clearMetrics s).txPos = s.txPos := rfl
@[simp] theorem clearMetrics_answer (s : State) : (clearMetrics s).answer = s.answer := rfl
@[simp] theorem clearMetrics_offers (s : State) : (clearMetrics s).offers = s.offers := rfl

/-! ### searchFrom -/
@[simp] theorem searchFrom_cfg (p : Nat) (s : State) : (searchFrom p s).cfg = s.cfg := rfl
@[simp] theorem searchFrom_counters (p : Nat) (s : State) : (searchFrom p s).counters = s.counters := rfl
@[simp] theorem searchFrom_errors (p : Nat) (s : State) : (searchFrom p s).errors = s.errors := rfl
@[simp] theorem searchFrom_run (p : Nat) (s : State) : (searchFrom p s).run = s.run := rfl
@[simp] theorem searchFrom_deframer (p : Nat) (s : State) : (searchFrom p s).deframer = { s.deframer with lock := .noSync, good := 0, miss := 0, flag := false, phase := .search, pos := p } := rfl
@[simp] theorem searchFrom_nv (p : Nat) (s : State) : (searchFrom p s).nv = s.nv := rfl
@[simp] theorem searchFrom_avail (p : Nat) (s : State) : (searchFrom p s).avail = s.avail := rfl
@[simp] theorem searchFrom_soft (p : Nat) (s : State) : (searchFrom p s).soft = s.soft := rfl
@[simp] theorem searchFrom_lastBit (p : Nat) (s : State) : (searchFrom p s).lastBit = s.lastBit := rfl
@[simp] theorem searchFrom_pm (p : Nat) (s : State) : (searchFrom p s).pm = s.pm := rfl
@[simp] theorem searchFrom_queue (p : Nat) (s : State) : (searchFrom p s).queue = s.queue := rfl
@[simp] theorem searchFrom_txPos (p : Nat) (s : State) : (searchFrom p s).txPos = s.txPos := rfl
@[simp] theorem searchFrom_answer (p : Nat) (s : State) : (searchFrom p s).answer = s.answer := rfl
@[simp] theorem searchFrom_offers (p : Nat) (s : State) : (searchFrom p s).offers = s.offers := rfl

/-! ### withOffers -/
@[simp] theorem withOffers_cfg (os : List Offer) (s : State) : (withOffers os s).cfg = s.cfg := rfl
@[simp] theorem withOffers_counters (os : List Offer) (s : State) : (withOffers os s).counters = s.counters := rfl
@[simp] theorem withOffers_errors (os : List Offer) (s : State) : (withOffers os s).errors = s.errors := rfl
@[simp] theorem withOffers_run (os : List Offer) (s : State) : (withOffers os s).run = s.run := rfl
@[simp] theorem withOffers_deframer (os : List Offer) (s : State) : (withOffers os s).deframer = s.deframer := rfl
@[simp] theorem withOffers_nv (os : List Offer) (s : State) : (withOffers os s).nv = s.nv := rfl
@[simp] theorem withOffers_avail (os : List Offer) (s : State) : (withOffers os s).avail = s.avail := rfl
@[simp] theorem withOffers_soft (os : List Offer) (s : State) : (withOffers os s).soft = s.soft := rfl
@[simp] theorem withOffers_lastBit (os : List Offer) (s : State) : (withOffers os s).lastBit = s.lastBit := rfl
@[simp] theorem withOffers_pm (os : List Offer) (s : State) : (withOffers os s).pm = s.pm := rfl
@[simp] theorem withOffers_queue (os : List Offer) (s : State) : (withOffers os s).queue = s.queue := rfl
@[simp] theorem withOffers_txPos (os : List Offer) (s : State) : (withOffers os s).txPos = s.txPos := rfl
@[simp] theorem withOffers_answer (os : List Offer) (s : State) : (withOffers os s).answer = s.answer := rfl
@[simp] theorem withOffers_offers (os : List Offer) (s : State) : (withOffers os s).offers = os := rfl

/-! ### raiseStatus -/
@[simp] theorem raiseStatus_cfg (b : StatusBit) (s : State) : (raiseStatus b s).cfg = s.cfg := by cases b <;> rfl
@[simp] theorem raiseStatus_counters (b : StatusBit) (s : State) : (raiseStatus b s).counters = s.counters := by cases b <;> rfl
@[simp] theorem raiseStatus_run (b : StatusBit) (s : State) : (raiseStatus b s).run = s.run := by cases b <;> rfl
@[simp] theorem raiseStatus_deframer (b : StatusBit) (s : State) : (raiseStatus b s).deframer = s.deframer := by cases b <;> rfl
@[simp] theorem raiseStatus_nv (b : StatusBit) (s : State) : (raiseStatus b s).nv = s.nv := by cases b <;> rfl
@[simp] theorem raiseStatus_avail (b : StatusBit) (s : State) : (raiseStatus b s).avail = s.avail := by cases b <;> rfl
@[simp] theorem raiseStatus_soft (b : StatusBit) (s : State) : (raiseStatus b s).soft = s.soft := by cases b <;> rfl
@[simp] theorem raiseStatus_lastBit (b : StatusBit) (s : State) : (raiseStatus b s).lastBit = s.lastBit := by cases b <;> rfl
@[simp] theorem raiseStatus_pm (b : StatusBit) (s : State) : (raiseStatus b s).pm = s.pm := by cases b <;> rfl
@[simp] theorem raiseStatus_queue (b : StatusBit) (s : State) : (raiseStatus b s).queue = s.queue := by cases b <;> rfl
@[simp] theorem raiseStatus_txPos (b : StatusBit) (s : State) : (raiseStatus b s).txPos = s.txPos := by cases b <;> rfl
@[simp] theorem raiseStatus_answer (b : StatusBit) (s : State) : (raiseStatus b s).answer = s.answer := by cases b <;> rfl
@[simp] theorem raiseStatus_offers (b : StatusBit) (s : State) : (raiseStatus b s).offers = s.offers := by cases b <;> rfl
@[simp] theorem raiseStatus_cfgErr_errors (s : State) : (raiseStatus .cfgErr s).errors = { s.errors with cfgErr := true } := rfl
@[simp] theorem raiseStatus_cmdErr_errors (s : State) : (raiseStatus .cmdErr s).errors = { s.errors with cmdErr := true } := rfl
@[simp] theorem raiseStatus_wrErr_errors (s : State) : (raiseStatus .wrErr s).errors = { s.errors with wrErr := true } := rfl
@[simp] theorem raiseStatus_aborted_errors (s : State) : (raiseStatus .aborted s).errors = { s.errors with aborted := true } := rfl

/-! ### raiseCfgFail -/
@[simp] theorem raiseCfgFail_cfg (k : BitVec 3) (s : State) : (raiseCfgFail k s).cfg = s.cfg := rfl
@[simp] theorem raiseCfgFail_counters (k : BitVec 3) (s : State) : (raiseCfgFail k s).counters = s.counters := rfl
@[simp] theorem raiseCfgFail_errors (k : BitVec 3) (s : State) : (raiseCfgFail k s).errors = { s.errors with cfgErr := true, cfgFail := k } := rfl
@[simp] theorem raiseCfgFail_run (k : BitVec 3) (s : State) : (raiseCfgFail k s).run = s.run := rfl
@[simp] theorem raiseCfgFail_deframer (k : BitVec 3) (s : State) : (raiseCfgFail k s).deframer = s.deframer := rfl
@[simp] theorem raiseCfgFail_nv (k : BitVec 3) (s : State) : (raiseCfgFail k s).nv = s.nv := rfl
@[simp] theorem raiseCfgFail_avail (k : BitVec 3) (s : State) : (raiseCfgFail k s).avail = s.avail := rfl
@[simp] theorem raiseCfgFail_soft (k : BitVec 3) (s : State) : (raiseCfgFail k s).soft = s.soft := rfl
@[simp] theorem raiseCfgFail_lastBit (k : BitVec 3) (s : State) : (raiseCfgFail k s).lastBit = s.lastBit := rfl
@[simp] theorem raiseCfgFail_pm (k : BitVec 3) (s : State) : (raiseCfgFail k s).pm = s.pm := rfl
@[simp] theorem raiseCfgFail_queue (k : BitVec 3) (s : State) : (raiseCfgFail k s).queue = s.queue := rfl
@[simp] theorem raiseCfgFail_txPos (k : BitVec 3) (s : State) : (raiseCfgFail k s).txPos = s.txPos := rfl
@[simp] theorem raiseCfgFail_answer (k : BitVec 3) (s : State) : (raiseCfgFail k s).answer = s.answer := rfl
@[simp] theorem raiseCfgFail_offers (k : BitVec 3) (s : State) : (raiseCfgFail k s).offers = s.offers := rfl
end Sys2Proof.Machine
end

