-- ==== Sys2Proof/Laws/Commands.lean ====
section
/-! SUPPORT. What the commands, the checks of `START` and the register accesses can do. -/

namespace Sys2Proof.Machine

/-! ## Commands -/

/-- What a command can do: its effect where it is legal, else only `CMD_ERR`. -/
theorem runCommand_cases (cmd : Command) (s : State) :
    (commandLegal s.run cmd = true ∧ runCommand cmd s = commandEffect cmd s)
      ∨ (commandLegal s.run cmd = false ∧ runCommand cmd s = raiseStatus .cmdErr s) := by
  unfold runCommand
  cases commandLegal s.run cmd <;> simp

theorem commandLegal_start (r : RunState) : commandLegal r .start = true ↔ r = .idle := by simp [commandLegal]
theorem commandLegal_stop (r : RunState) : commandLegal r .stop = true ↔ r ≠ .idle := by simp [commandLegal]
theorem commandLegal_resync (r : RunState) : commandLegal r .resync = true ↔ r = .running := by simp [commandLegal]

/-- What `START` in `IDLE` can do. -/
theorem startCommand_cases (c : CfgRegs) (s : State) :
    (startFail c = 0 ∧ startCommand c s = startRun s)
      ∨ (startFail c ≠ 0 ∧ startCommand c s = raiseCfgFail (startFail c) s) := by
  unfold startCommand
  by_cases h : startFail c = 0
  · exact .inl ⟨h, if_pos h⟩
  · exact .inr ⟨h, if_neg h⟩

/-- A failing `START` writes `CFG_ERR` and `CFG_FAIL`. -/
theorem raiseCfgFail_eq (code : BitVec 3) (s : State) :
    raiseCfgFail code s = { s with errors := { s.errors with cfgErr := true, cfgFail := code } } := rfl

/-- What `STOP` can do: `ABORTED` is set exactly when the head frame was partly delivered. -/
theorem stopCommand_cases (s : State) :
    (s.queue ≠ [] ∧ 0 < s.txPos
        ∧ stopCommand s
          = { s with run := .stopped, queue := [], txPos := 0, errors := { s.errors with aborted := true } })
      ∨ (¬ (s.queue ≠ [] ∧ 0 < s.txPos)
        ∧ stopCommand s = { s with run := .stopped, queue := [], txPos := 0 }) := by
  unfold stopCommand
  by_cases h : s.queue ≠ [] ∧ 0 < s.txPos
  · exact .inl ⟨h.1, h.2, by simp only [if_pos h]; rfl⟩
  · exact .inr ⟨h, by simp only [if_neg h]; rfl⟩

/-! ## The checks of `START` -/

/-- The configuration passes exactly when no check fails. -/
theorem startFail_eq_zero_iff (c : CfgRegs) :
    startFail c = 0 ↔
      failsMarkerLen c = false ∧ failsFrameLen c = false ∧ failsAlignment c = false ∧ failsDiffMode c = false
        ∧ failsVitCode c = false ∧ failsRsGeometry c = false ∧ failsLockCfg c = false := by
  unfold startFail
  cases failsMarkerLen c <;> cases failsFrameLen c <;> cases failsAlignment c <;> cases failsDiffMode c <;>
    cases failsVitCode c <;> cases failsRsGeometry c <;> cases failsLockCfg c <;> simp

theorem failsMarkerLen_iff (c : CfgRegs) : failsMarkerLen c = true ↔ markerLen c < 1 ∨ 64 < markerLen c := by
  rw [failsMarkerLen, decide_eq_true_iff, Config.lMax]

theorem failsFrameLen_iff (c : CfgRegs) :
    failsFrameLen c = true ↔ ¬ (markerLen c < framePeriod c ∧ framePeriod c ≤ Config.maxFrameBits) := by
  rw [failsFrameLen, decide_eq_true_iff]

theorem failsAlignment_iff (c : CfgRegs) :
    failsAlignment c = true ↔ payloadLen c % 8 ≠ 0 ∨ (vitEn c = true ∧ payloadLen c % 16 ≠ 0) := by
  rw [failsAlignment, decide_eq_true_iff]

theorem codeLegal_iff (code : VitCode) :
    codeLegal code = true ↔
      3 ≤ code.k ∧ code.k ≤ 9 ∧ 0 < code.g1 ∧ code.g1 < 2 ^ code.k ∧ 0 < code.g2 ∧ code.g2 < 2 ^ code.k := by
  rw [codeLegal, decide_eq_true_iff, Config.kMin, Config.kMax]

theorem rsGeometryLegal_iff (c : CfgRegs) (len : Nat) :
    rsGeometryLegal c len = true ↔ 1 ≤ rsDepth c ∧ rsDepth c ≤ 8 ∧ len = 255 * rsDepth c := by
  rw [rsGeometryLegal, decide_eq_true_iff, Config.iMax]

/-! ## Register accesses -/

/-- What a write to a configuration register can do. -/
theorem writeCfg_cases (r : Reg) (v : Word) (s : State) :
    (s.run = .idle ∧ writeCfg r v s = { s with cfg := setCfgReg s.cfg r (v &&& storedMask r) })
      ∨ (s.run ≠ .idle ∧ writeCfg r v s = raiseStatus .wrErr s) := by
  unfold writeCfg
  by_cases h : s.run = .idle <;> simp [h]

/-- What a write can do, by the register at its offset. -/
theorem writeWord_cases (off : BitVec 12) (v : Word) (s : State) :
    (regAt off = none ∧ writeWord off v s = s)
      ∨ ∃ r, regAt off = some r
          ∧ ((accessOf r = .wo ∧ writeWord off v s = runCommand (commandOf v) s)
            ∨ (accessOf r = .rwi ∧ writeWord off v s = writeCfg r v s)
            ∨ (accessOf r = .ro ∧ writeWord off v s = raiseStatus .wrErr s)) := by
  unfold writeWord executeWord
  cases h : regAt off with
  | none => simp
  | some r => cases ha : accessOf r <;> simp [ha]

theorem readWord_of_regAt {s : State} {off : BitVec 12} {r : Reg} (h : regAt off = some r) :
    readWord s off = regValue s r := by rw [readWord, h]

theorem readWord_reserved {s : State} {off : BitVec 12} (h : regAt off = none) : readWord s off = 0 := by
  rw [readWord, h]

/-- Only the register `CMD` is write-only. -/
theorem accessOf_wo_iff (r : Reg) : accessOf r = .wo ↔ r = .cmd := by cases r <;> simp [accessOf]

end Sys2Proof.Machine
end

