-- ==== Sys2Proof/Laws/Deframer.lean ====
section
/-! SUPPORT. What each operation of the deframer and the frame chain can do. -/

namespace Sys2Proof.Machine

/-! ## Frame chain: fields that a frame does not touch -/

@[simp] theorem emitFrame_cfg (p : Nat) (h : BitVec 3) (fl : Bool) (lk : Lock) (s : State) :
    (emitFrame p h fl lk s).cfg = s.cfg := rfl
@[simp] theorem emitFrame_errors (p : Nat) (h : BitVec 3) (fl : Bool) (lk : Lock) (s : State) :
    (emitFrame p h fl lk s).errors = s.errors := rfl
@[simp] theorem emitFrame_run (p : Nat) (h : BitVec 3) (fl : Bool) (lk : Lock) (s : State) :
    (emitFrame p h fl lk s).run = s.run := rfl
@[simp] theorem emitFrame_deframer (p : Nat) (h : BitVec 3) (fl : Bool) (lk : Lock) (s : State) :
    (emitFrame p h fl lk s).deframer = s.deframer := rfl
@[simp] theorem emitFrame_nv (p : Nat) (h : BitVec 3) (fl : Bool) (lk : Lock) (s : State) :
    (emitFrame p h fl lk s).nv = s.nv := rfl
@[simp] theorem emitFrame_avail (p : Nat) (h : BitVec 3) (fl : Bool) (lk : Lock) (s : State) :
    (emitFrame p h fl lk s).avail = s.avail := rfl
@[simp] theorem emitFrame_soft (p : Nat) (h : BitVec 3) (fl : Bool) (lk : Lock) (s : State) :
    (emitFrame p h fl lk s).soft = s.soft := rfl
@[simp] theorem emitFrame_txPos (p : Nat) (h : BitVec 3) (fl : Bool) (lk : Lock) (s : State) :
    (emitFrame p h fl lk s).txPos = s.txPos := rfl
@[simp] theorem emitFrame_answer (p : Nat) (h : BitVec 3) (fl : Bool) (lk : Lock) (s : State) :
    (emitFrame p h fl lk s).answer = s.answer := rfl
@[simp] theorem emitFrame_offers (p : Nat) (h : BitVec 3) (fl : Bool) (lk : Lock) (s : State) :
    (emitFrame p h fl lk s).offers = s.offers := rfl

/-- A frame is queued at the tail. -/
theorem emitFrame_queue (p : Nat) (h : BitVec 3) (fl : Bool) (lk : Lock) (s : State) :
    ∃ f, (emitFrame p h fl lk s).queue = s.queue ++ [f] := ⟨_, rfl⟩

/-! ## Deframer operations -/

/-- What an acquisition attempt can do: it records the score, and collects at `POS` or moves on by one bit. -/
theorem acqEval_cases (s : State) :
    (acqThreshold s.cfg ≤ bestScore s.cfg s.soft s.deframer.pos
        ∧ acqEval s
          = { setLastScore (bestScore s.cfg s.soft s.deframer.pos) s with
              deframer :=
                { lock := .syncing, phase := .collect
                  hyp := bestHypothesis s.cfg s.soft s.deframer.hyp s.deframer.pos
                  good := 0, miss := 0, flag := false, pos := s.deframer.pos } })
      ∨ (bestScore s.cfg s.soft s.deframer.pos < acqThreshold s.cfg
        ∧ acqEval s
          = { setLastScore (bestScore s.cfg s.soft s.deframer.pos) s with
              deframer := { s.deframer with pos := s.deframer.pos + 1 } }) := by
  by_cases h : acqThreshold s.cfg ≤ bestScore s.cfg s.soft s.deframer.pos
  · exact .inl ⟨h, by simp only [acqEval, if_pos h]; rfl⟩
  · exact .inr ⟨by omega, by simp only [acqEval, if_neg h]; rfl⟩

/-- An acquisition attempt writes the deframer and `LAST_SCORE` only. -/
theorem acqEval_frame (s : State) :
    acqEval s
      = { setLastScore (bestScore s.cfg s.soft s.deframer.pos) s with deframer := (acqEval s).deframer } := by
  rcases acqEval_cases s with ⟨_, h⟩ | ⟨_, h⟩ <;> rw [h]

/-- The lost lock: the search restarts at the failed marker, with one attempt at once. -/
theorem enterNoSync_eq (s : State) : enterNoSync s = acqEval (clearMetrics (searchFrom s.deframer.pos s)) := rfl

/-- What a check in `SYNCING` can do. -/
theorem checkSyncing_cases (ok : Bool) (s : State) :
    (ok = true ∧ goodToLock s.cfg ≤ s.deframer.good + 1
        ∧ checkSyncing ok s
          = { s with
              deframer :=
                { s.deframer with
                  good := s.deframer.good + 1, lock := .synced, miss := 0, flag := false, phase := .collect } })
      ∨ (ok = true ∧ s.deframer.good + 1 < goodToLock s.cfg
        ∧ checkSyncing ok s
          = { s with deframer := { s.deframer with good := s.deframer.good + 1, flag := false, phase := .collect } })
      ∨ (ok = false ∧ checkSyncing ok s = enterNoSync (countSyncError s)) := by
  cases ok
  · exact .inr (.inr ⟨rfl, rfl⟩)
  · by_cases h : goodToLock s.cfg ≤ s.deframer.good + 1
    · exact .inl ⟨rfl, h, by simp [checkSyncing, h]⟩
    · exact .inr (.inl ⟨rfl, by omega, by simp [checkSyncing, h]⟩)

/-- What a check in `SYNCED` can do. -/
theorem checkSynced_cases (ok : Bool) (s : State) :
    (ok = true
        ∧ checkSynced ok s = { s with deframer := { s.deframer with miss := 0, flag := false, phase := .collect } })
      ∨ (ok = false ∧ s.deframer.miss + 1 < lossThresh s.cfg
        ∧ checkSynced ok s
          = { countSyncError s with
              deframer := { s.deframer with miss := s.deframer.miss + 1, flag := true, phase := .collect } })
      ∨ (ok = false ∧ lossThresh s.cfg ≤ s.deframer.miss + 1
        ∧ checkSynced ok s
          = enterNoSync
              { countSyncError s with deframer := { s.deframer with miss := s.deframer.miss + 1 } }) := by
  cases ok
  · by_cases h : lossThresh s.cfg ≤ s.deframer.miss + 1
    · exact .inr (.inr ⟨rfl, h, by simp [checkSynced, h]⟩)
    · exact .inr (.inl ⟨rfl, by omega, by simp [checkSynced, h]⟩)
  · exact .inl ⟨rfl, rfl⟩

/-- What a check can do, by lock state. -/
theorem checkEval_cases (s : State) :
    ∃ ok : Bool,
      (ok = true ↔ chkThreshold s.cfg ≤ score s.cfg s.soft s.deframer.hyp s.deframer.pos)
        ∧ ((s.deframer.lock = .syncing
            ∧ checkEval s = checkSyncing ok (setLastScore (score s.cfg s.soft s.deframer.hyp s.deframer.pos) s))
          ∨ (s.deframer.lock ≠ .syncing
            ∧ checkEval s = checkSynced ok (setLastScore (score s.cfg s.soft s.deframer.hyp s.deframer.pos) s))) := by
  refine ⟨decide (chkThreshold s.cfg ≤ score s.cfg s.soft s.deframer.hyp s.deframer.pos), by simp, ?_⟩
  unfold checkEval
  cases h : s.deframer.lock <;> simp

/-- What the bit step can do. -/
theorem deframerBit_cases (n : Nat) (s : State) :
    (s.deframer.phase = .search ∧ n + 1 = s.deframer.pos + markerLen s.cfg ∧ deframerBit n s = acqEval s)
      ∨ (s.deframer.phase = .collect ∧ n + 1 = s.deframer.pos + framePeriod s.cfg ∧ deframerBit n s = collectEnd s)
      ∨ (s.deframer.phase = .check ∧ n + 1 = s.deframer.pos + markerLen s.cfg ∧ deframerBit n s = checkEval s)
      ∨ (n + 1 ≠ s.deframer.pos
            + (if s.deframer.phase = .collect then framePeriod s.cfg else markerLen s.cfg)
          ∧ deframerBit n s = s) := by
  unfold deframerBit windowEnds frameEnds
  cases h : s.deframer.phase <;> simp <;> tauto

/-- Collection: the frame is emitted, and the next marker is expected one period on. -/
theorem collectEnd_eq (s : State) :
    collectEnd s
      = { emitFrame s.deframer.pos s.deframer.hyp s.deframer.flag s.deframer.lock s with
          deframer := { s.deframer with pos := s.deframer.pos + framePeriod s.cfg, phase := .check } } := rfl

/-! ## Availability -/

theorem availBits_zero (s : State) : availBits 0 s = s := rfl

theorem availBits_succ (count : Nat) (s : State) : availBits (count + 1) s = availBits count (availBit s) := rfl

/-- An accepted value makes at most two bits available when all bits of the values before it are. -/
theorem newAvail_succ_sub_le (c : CfgRegs) (nv : Nat) : newAvail c (nv + 1) - newAvail c nv ≤ 2 := by
  unfold newAvail
  split <;> omega

/-- A property that making one bit available keeps, making any number keeps. -/
theorem availBits_induction {motive : State → Prop} (hstep : ∀ s, motive s → motive (availBit s)) (count : Nat)
    {s : State} (hs : motive s) : motive (availBits count s) := by
  induction count generalizing s with
  | zero => exact hs
  | succ c ih => exact ih (hstep s hs)

end Sys2Proof.Machine
end

