-- ==== Sys2Proof/Laws/PerInstr.lean ====
section
/-! SUPPORT. Families of lemmas with one lemma per constructor of Instr. -/

namespace Sys2Proof.Laws

/-! ## No instruction is offered at the reset port, so a step never mistakes one for a hardware reset -/

/-- The instruction's port is not the reset port. -/
def NotReset.Statement (i : Instr) : Prop := portOf i ≠ .reset

theorem NotReset.nop : NotReset.Statement .nop := by simp [NotReset.Statement, portOf]
theorem NotReset.start : NotReset.Statement .start := by simp [NotReset.Statement, portOf]
theorem NotReset.stop : NotReset.Statement .stop := by simp [NotReset.Statement, portOf]
theorem NotReset.softReset : NotReset.Statement .softReset := by simp [NotReset.Statement, portOf]
theorem NotReset.resync : NotReset.Statement .resync := by simp [NotReset.Statement, portOf]
theorem NotReset.clearCounters : NotReset.Statement .clearCounters := by simp [NotReset.Statement, portOf]
theorem NotReset.clearErrors : NotReset.Statement .clearErrors := by simp [NotReset.Statement, portOf]
theorem NotReset.cmdIllegal (w : Word) : NotReset.Statement (.cmdIllegal w) := by simp [NotReset.Statement, portOf]
theorem NotReset.read (off : BitVec 12) : NotReset.Statement (.read off) := by simp [NotReset.Statement, portOf]
theorem NotReset.write (off : BitVec 12) (v : Word) : NotReset.Statement (.write off v) := by simp [NotReset.Statement, portOf]
theorem NotReset.sym (d : Soft) : NotReset.Statement (.sym d) := by simp [NotReset.Statement, portOf]
theorem NotReset.symLast (d : Soft) : NotReset.Statement (.symLast d) := by simp [NotReset.Statement, portOf]
theorem NotReset.pop : NotReset.Statement .pop := by simp [NotReset.Statement, portOf]
theorem NotReset.hypBpsk (n : Nat) (h : BitVec 1) : NotReset.Statement (.hypBpsk n h) := by simp [NotReset.Statement, portOf]
theorem NotReset.hypQpsk (n : Nat) (h : BitVec 3) : NotReset.Statement (.hypQpsk n h) := by simp [NotReset.Statement, portOf]
theorem NotReset.scoreHard (n : Nat) (h : BitVec 3) : NotReset.Statement (.scoreHard n h) := by simp [NotReset.Statement, portOf]
theorem NotReset.scoreSoft (n : Nat) (h : BitVec 3) : NotReset.Statement (.scoreSoft n h) := by simp [NotReset.Statement, portOf]
theorem NotReset.derand (x : List Soft) : NotReset.Statement (.derand x) := by simp [NotReset.Statement, portOf]
theorem NotReset.nrzm (y : Soft) : NotReset.Statement (.nrzm y) := by simp [NotReset.Statement, portOf]
theorem NotReset.nrzs (y : Soft) : NotReset.Statement (.nrzs y) := by simp [NotReset.Statement, portOf]
theorem NotReset.hardPack (z : List Soft) : NotReset.Statement (.hardPack z) := by simp [NotReset.Statement, portOf]
theorem NotReset.vitDecode (z : List Soft) : NotReset.Statement (.vitDecode z) := by simp [NotReset.Statement, portOf]
theorem NotReset.rsDecode223 (frame : List Byte) : NotReset.Statement (.rsDecode223 frame) := by simp [NotReset.Statement, portOf]
theorem NotReset.rsDecode239 (frame : List Byte) : NotReset.Statement (.rsDecode239 frame) := by simp [NotReset.Statement, portOf]
theorem NotReset.diffReserved : NotReset.Statement .diffReserved := by simp [NotReset.Statement, portOf]
theorem NotReset.correlate (n : Nat) : NotReset.Statement (.correlate n) := by simp [NotReset.Statement, portOf]
theorem NotReset.acqEval : NotReset.Statement .acqEval := by simp [NotReset.Statement, portOf]
theorem NotReset.collect : NotReset.Statement .collect := by simp [NotReset.Statement, portOf]
theorem NotReset.checkEval : NotReset.Statement .checkEval := by simp [NotReset.Statement, portOf]
theorem NotReset.frameEmit : NotReset.Statement .frameEmit := by simp [NotReset.Statement, portOf]

end Sys2Proof.Laws
end

