-- ==== Sys2Proof/Laws/Words.lean ====
section
/-! SUPPORT. Lemmas about bytes, little-endian words, command words and the open parameters. -/

namespace Sys2Proof

/-! ## Bytes of a number -/

@[simp] theorem leBytes_length (count v : Nat) : (leBytes count v).length = count := by
  induction count generalizing v with
  | zero => rfl
  | succ c ih => simp [leBytes, ih]

/-- Laying a number out in bytes and reading it back keeps what the bytes can hold. -/
theorem ofLeBytes_leBytes_mod (count v : Nat) : ofLeBytes (leBytes count v) = v % 256 ^ count := by
  induction count generalizing v with
  | zero => simp [leBytes, ofLeBytes, Nat.mod_one]
  | succ c ih =>
    simp only [leBytes, ofLeBytes, ih, BitVec.toNat_ofNat]
    exact (pow_succ' 256 c ▸ Nat.mod_mul).symm

theorem ofLeBytes_leBytes {count v : Nat} (h : v < 256 ^ count) : ofLeBytes (leBytes count v) = v := by
  rw [ofLeBytes_leBytes_mod, Nat.mod_eq_of_lt h]

theorem ofLeBytes_lt (bytes : List Byte) : ofLeBytes bytes < 256 ^ bytes.length := by
  induction bytes with
  | nil => simp [ofLeBytes]
  | cons b rest ih =>
    have := b.isLt
    simp only [ofLeBytes, List.length_cons, pow_succ]
    omega

/-! ## Command words -/

/-- The words that are no command, in the terms of 30_encoding.md R84. -/
theorem illegal_word_iff (w : Word) : (w >>> 4 ≠ 0 ∨ 7 ≤ (w &&& 0xF).toNat) ↔ 7 ≤ w.toNat := by
  have low : (w &&& 0xF).toNat = w.toNat % 16 := by
    rw [BitVec.toNat_and]
    exact Nat.and_two_pow_sub_one_eq_mod w.toNat 4
  have high : w >>> 4 = 0 ↔ w.toNat / 16 = 0 := by
    rw [← BitVec.toNat_inj, BitVec.toNat_ushiftRight, Nat.shiftRight_eq_div_pow]
    simp
  rw [low, Ne, high]
  omega

theorem commandOf_illegal_iff (w : Word) : commandOf w = .illegal ↔ 7 ≤ w.toNat := by
  unfold commandOf
  split
  case h_8 h0 h1 h2 h3 h4 h5 h6 =>
    simp only [true_iff]
    by_contra hc
    have hw : w.toNat < 7 := by omega
    interval_cases w.toNat <;> simp_all
  all_goals simp only [reduceCtorEq, false_iff]; omega

/-! ## Open parameters (00_scope.md R10) -/

theorem Config.outCap_pos : 1 ≤ Config.outCap := Nat.le_max_left _ _

theorem Config.maxFrameBits_ge : 72 ≤ Config.maxFrameBits := Nat.le_max_left _ _

end Sys2Proof
end

