-- ==== Sys2Proof/Laws/Ports.lean ====
section
/-! SUPPORT. What the port signals say, which offer is taken, and what a stream operation can do. -/

namespace Sys2Proof.Machine

/-! ## Port signals -/

theorem queueRoom_iff (s : State) : queueRoom s = true ↔ s.queue.length < Config.outCap := by
  have := Config.outCap_pos
  unfold queueRoom
  split
  · simp_all; omega
  · simp

theorem inReady_iff (s : State) :
    inReady s = true ↔ (s.run = .running ∧ s.queue.length < Config.outCap) ∨ s.run = .stopped ∨ s.run = .done := by
  unfold inReady
  split <;> simp_all [queueRoom_iff]

theorem outValid_iff (s : State) : outValid s = true ↔ s.queue ≠ [] := by
  cases h : s.queue <;> simp [outValid, h]

theorem outClosed_iff (s : State) : outClosed s = true ↔ (s.run = .stopped ∨ s.run = .done) ∧ s.queue = [] := by
  unfold outClosed
  split <;> simp_all [List.isEmpty_iff]

/-! ## Offers -/

/-- What taking an offer can do: everything before the taken offer is held and stays in its place. -/
theorem takeOffer_spec {s : State} {os rest : List Offer} {o : Offer} (h : takeOffer s os = some (o, rest)) :
    ∃ held later, os = held ++ o :: later ∧ rest = held ++ later ∧ portReady s o.port = true
      ∧ ∀ p ∈ held, portReady s p.port = false := by
  induction os generalizing rest with
  | nil => simp [takeOffer] at h
  | cons q os ih =>
    rw [takeOffer] at h
    by_cases hq : portReady s q.port = true
    · simp only [hq, if_true, Option.some.injEq, Prod.mk.injEq] at h
      exact ⟨[], os, by simp [h.1], by simp [h.2], h.1 ▸ hq, by simp⟩
    · rw [if_neg hq] at h
      split at h
      · next o' rest' hr =>
        simp only [Option.some.injEq, Prod.mk.injEq] at h
        obtain ⟨held, later, e1, e2, e3, e4⟩ := ih (h.1 ▸ hr)
        refine ⟨q :: held, later, by simp [e1], by simp [← h.2, e2], e3, ?_⟩
        simpa [Bool.not_eq_true] using And.intro (by simpa using hq) e4
      · simp at h

theorem takeOffer_first {s : State} {o : Offer} {rest : List Offer} (h : portReady s o.port = true) :
    takeOffer s (o :: rest) = some (o, rest) := by
  rw [takeOffer, if_pos h]

theorem takeOffer_eq_none_iff (s : State) (os : List Offer) :
    takeOffer s os = none ↔ ∀ o ∈ os, portReady s o.port = false := by
  induction os with
  | nil => simp [takeOffer]
  | cons q os ih =>
    rw [takeOffer]
    by_cases hq : portReady s q.port = true
    · simp [hq]
    · rw [if_neg hq]
      cases hr : takeOffer s os with
      | none => simpa [hr] using And.intro (by simpa using hq) (ih.mp hr)
      | some p =>
        rw [hr] at ih
        simp only [reduceCtorEq, false_iff] at ih ⊢
        exact fun hc => ih fun o ho => hc o (List.mem_cons_of_mem q ho)

/-- What a step can do: nothing is offered that a port accepts, a hardware reset, an instruction, or a refusal. -/
theorem step_cases (s : State) :
    (takeOffer s s.offers = none ∧ step s = .next s)
      ∨ ∃ o rest, takeOffer s s.offers = some (o, rest)
          ∧ ((o.port = .reset ∧ step s = .next (hardReset (withOffers rest s)))
            ∨ (o.port ≠ .reset ∧ ∃ i, decode o.port o.bytes = .ok i ∧ step s = exec i (withOffers rest s))
            ∨ (o.port ≠ .reset ∧ ∃ e, decode o.port o.bytes = .error e ∧ step s = .refused (.badEncoding e))) := by
  unfold step
  cases ht : takeOffer s s.offers with
  | none => exact .inl ⟨rfl, rfl⟩
  | some p =>
    refine .inr ⟨p.1, p.2, rfl, ?_⟩
    by_cases hp : p.1.port = .reset
    · exact .inl ⟨hp, by simp [hp]⟩
    · cases hd : decode p.1.port p.1.bytes with
      | ok i => exact .inr (.inl ⟨hp, i, rfl, by simp [hp, hd]⟩)
      | error e => exact .inr (.inr ⟨hp, e, rfl, by simp [hp, hd]⟩)

/-! ## Stream operations -/

/-- What accepting a beat can do: it is held, discarded, or processed in `RUNNING`. -/
theorem takeBeat_cases (last : Bool) (v : Soft) (s : State) :
    (inReady s = false ∧ takeBeat last v s = s)
      ∨ ((s.run = .stopped ∨ s.run = .done) ∧ takeBeat last v s = s)
      ∨ (s.run = .running ∧ s.queue.length < Config.outCap
          ∧ takeBeat last v s = (if last then endOfStream (acceptSoft v s) else acceptSoft v s)) := by
  unfold takeBeat
  cases hr : inReady s with
  | false => simp
  | true =>
    have := (inReady_iff s).mp hr
    cases hs : s.run <;> simp_all

/-- What delivering a beat can do: the head frame leaves with its last byte, or one more of its bytes is out. -/
theorem deliverBeat_cases (b : OutBeat) (s : State) :
    (b.eof = true ∧ deliverBeat b s = { s with queue := s.queue.tail, txPos := 0 })
      ∨ (b.eof = false ∧ deliverBeat b s = { s with txPos := s.txPos + 1 }) := by
  unfold deliverBeat
  cases b.eof <;> simp

end Sys2Proof.Machine
end

