-- ==== Sys2Proof/Tests/Slice0.lean ====
section
/-! SUPPORT. Tests. Expected values come from the spec (the vectors of 95_test_vectors.md, the worked examples of the rules) or from
a calculation by hand from a rule, and each comment says which. The witnesses show that the hypotheses of the statements can be
met. -/

set_option Elab.async false

open Sys2Proof Sys2Proof.Machine

namespace Sys2Proof.Tests

/-! ## WellFormed: each check refuses an ill-formed term (ranges by hand from the rules the checks cite) -/

theorem test_wf_refuses_cmdIllegal_legal_word :
    wf (.cmdIllegal 6) = false := by decide +kernel

theorem test_wf_refuses_read_misaligned :
    wf (.read 0x001) = false := by decide +kernel

theorem test_wf_refuses_write_misaligned :
    wf (.write 0xFFE 0) = false := by decide +kernel

theorem test_wf_refuses_hypBpsk_index :
    wf (.hypBpsk (2 ^ 64) 0) = false := by decide +kernel

theorem test_wf_refuses_hypQpsk_index :
    wf (.hypQpsk (2 ^ 64) 0) = false := by decide +kernel

theorem test_wf_refuses_scoreHard_index :
    wf (.scoreHard (2 ^ 64) 0) = false := by decide +kernel

theorem test_wf_refuses_scoreSoft_index :
    wf (.scoreSoft (2 ^ 64) 0) = false := by decide +kernel

theorem test_wf_refuses_correlate_index :
    wf (.correlate (2 ^ 64)) = false := by decide +kernel

theorem test_wf_refuses_derand_empty :
    wf (.derand []) = false := by decide +kernel

theorem test_wf_refuses_derand_not_bytes :
    wf (.derand (List.replicate 7 0)) = false := by decide +kernel

theorem test_wf_refuses_hardPack_not_bytes :
    wf (.hardPack (List.replicate 9 0)) = false := by decide +kernel

theorem test_wf_refuses_vitDecode_odd_byte :
    wf (.vitDecode (List.replicate 8 0)) = false := by decide +kernel

theorem test_wf_refuses_rs223_short :
    wf (.rsDecode223 (List.replicate 254 0)) = false := by decide +kernel

theorem test_wf_refuses_rs223_empty :
    wf (.rsDecode223 []) = false := by decide +kernel

theorem test_wf_refuses_rs239_deep :
    wf (.rsDecode239 (List.replicate 2295 0)) = false := by decide +kernel

/-! ## Decoding: one word of every row, written out from its encoding

Command words are 30_encoding.md R83 and R84, beats R85 and R87. The units' `MODE` words are the rows' `match` values (R91). The
placement of a transaction's fields, and of operands behind a `MODE` word, is the model's (log 3, 4). -/

theorem test_decode_nop :
    decode .cmd [0x00, 0x00, 0x00, 0x00] = .ok .nop := rfl

theorem test_decode_start :
    decode .cmd [0x01, 0x00, 0x00, 0x00] = .ok .start := rfl

theorem test_decode_stop :
    decode .cmd [0x02, 0x00, 0x00, 0x00] = .ok .stop := rfl

theorem test_decode_softReset :
    decode .cmd [0x03, 0x00, 0x00, 0x00] = .ok .softReset := rfl

theorem test_decode_resync :
    decode .cmd [0x04, 0x00, 0x00, 0x00] = .ok .resync := rfl

theorem test_decode_clearCounters :
    decode .cmd [0x05, 0x00, 0x00, 0x00] = .ok .clearCounters := rfl

theorem test_decode_clearErrors :
    decode .cmd [0x06, 0x00, 0x00, 0x00] = .ok .clearErrors := rfl

theorem test_decode_cmdIllegal :
    decode .cmd [0x11, 0x00, 0x00, 0x00] = .ok (.cmdIllegal 0x11) := rfl

theorem test_decode_cmdIllegal_high :
    decode .cmd [0x01, 0x00, 0x00, 0x80] = .ok (.cmdIllegal 0x80000001) := rfl

theorem test_decode_read :
    decode .host [0x18, 0x00, 0x00, 0x00, 0x00, 0x00] = .ok (.read 0x00C) := rfl

theorem test_decode_write :
    decode .host [0x41, 0x00, 0x06, 0x00, 0x00, 0x00] = .ok (.write 0x020 48) := rfl

theorem test_decode_sym :
    decode .input [0x64, 0x00] = .ok (.sym 100) := rfl

theorem test_decode_symLast :
    decode .input [0x9B, 0x01] = .ok (.symLast 0x9B) := rfl

theorem test_decode_pop :
    decode .output [0x01] = .ok .pop := rfl

theorem test_decode_hypBpsk :
    decode .hypothesis [0x00, 0x00, 0x02, 0x01, 0, 0, 0, 0, 0, 0, 0x01] = .ok (.hypBpsk 0x102 1) := rfl

theorem test_decode_hypQpsk :
    decode .hypothesis [0x01, 0x00, 0x05, 0, 0, 0, 0, 0, 0, 0, 0x06] = .ok (.hypQpsk 5 6) := rfl

theorem test_decode_scoreHard :
    decode .score [0x00, 0x00, 0x03, 0, 0, 0, 0, 0, 0, 0, 0x07] = .ok (.scoreHard 3 7) := rfl

theorem test_decode_scoreSoft :
    decode .score [0x02, 0x00, 0x03, 0, 0, 0, 0, 0, 0, 0, 0x04] = .ok (.scoreSoft 3 4) := rfl

theorem test_decode_derand :
    decode .derand [0x04, 0x00, 1, 2, 3, 4, 5, 6, 7, 8] = .ok (.derand [1, 2, 3, 4, 5, 6, 7, 8]) := rfl

theorem test_decode_nrzm :
    decode .diff [0x08, 0x00, 0x80] = .ok (.nrzm 0x80) := rfl

theorem test_decode_nrzs :
    decode .diff [0x10, 0x00, 0x7F] = .ok (.nrzs 0x7F) := rfl

theorem test_decode_diffReserved :
    decode .diff [0x18, 0x00, 0x00] = .ok .diffReserved := rfl

theorem test_decode_hardPack :
    decode .pack [0x00, 0x00, 1, 2, 3, 4, 5, 6, 7, 8] = .ok (.hardPack [1, 2, 3, 4, 5, 6, 7, 8]) := rfl

theorem test_decode_vitDecode :
    decode .pack ([0x20, 0x00] ++ List.replicate 16 5) = .ok (.vitDecode (List.replicate 16 5)) := rfl

theorem test_decode_rsDecode223 :
    (decode .rs ([0x40, 0x00] ++ List.replicate 255 0x11)).toOption = some (.rsDecode223 (List.replicate 255 0x11)) := by decide +kernel

theorem test_decode_rsDecode239 :
    (decode .rs ([0xC0, 0x00] ++ List.replicate 510 0x11)).toOption = some (.rsDecode239 (List.replicate 510 0x11)) := by decide +kernel

theorem test_decode_correlate :
    decode .deframer [0x00, 0x07, 0, 0, 0, 0, 0, 0, 0] = .ok (.correlate 7) := rfl

theorem test_decode_acqEval :
    decode .deframer [0x01] = .ok .acqEval := rfl

theorem test_decode_collect :
    decode .deframer [0x02] = .ok .collect := rfl

theorem test_decode_checkEval :
    decode .deframer [0x03] = .ok .checkEval := rfl

theorem test_decode_frameEmit :
    decode .deframer [0x04] = .ok .frameEmit := rfl

/-- 20_memory.md R66: offset 0x001. -/
theorem test_decode_refuses_misaligned :
    decode .host [0x02, 0, 0, 0, 0, 0] = .error .misalignedOffset := rfl

/-- 20_memory.md R66: not a 32-bit access. -/
theorem test_decode_refuses_narrow :
    decode .host [0x18, 0x00] = .error .accessWidth := rfl

/-- 30_encoding.md R90: BPSK has indices 0 and 1. -/
theorem test_decode_refuses_bpsk_hypothesis :
    decode .hypothesis [0x00, 0x00, 0, 0, 0, 0, 0, 0, 0, 0, 0x02] = .error .hypothesisIndex := rfl

/-- 43_descrambler.md R182: DERAND_EN = 0. -/
theorem test_decode_refuses_derand_off :
    decode .derand [0x00, 0x00, 1, 2, 3, 4, 5, 6, 7, 8] = .error .notSelected := rfl

/-! ## Tables: the rules that generate them give the rows -/

/-- The register of 43_descrambler.md R180: bits `a[i] .. a[i+7]`, oldest first, moved on by one bit. -/
def pnShift : List Bool → List Bool
  | [a0, a1, a2, a3, a4, a5, a6, a7] => [a1, a2, a3, a4, a5, a6, a7, a7 ^^ a5 ^^ a3 ^^ a0]
  | a => a

/-- The first `count` bytes of the sequence from a register's contents (R180). -/
def pnRows : Nat → List Bool → List Byte
  | 0, _ => []
  | count + 1, a =>
    byteOfBits a :: pnRows count (pnShift (pnShift (pnShift (pnShift (pnShift (pnShift (pnShift (pnShift a))))))))

/-- `count` powers of `α` from `a` on (45_reed_solomon.md R220, R221). -/
def expRows : Nat → Byte → List Byte
  | 0, _ => []
  | count + 1, a => a :: expRows count (xtime a)

/-- `TALTAB[i]` by 45_reed_solomon.md R224. -/
def talRow (i : Nat) : Byte :=
  (List.range 8).foldl
    (fun acc k => if i.testBit k then acc ^^^ [0x8D, 0xEF, 0xEC, 0x86, 0xFA, 0x99, 0xAF, 0x7B].getD (7 - k) 0 else acc) 0

/-- 43_descrambler.md R180 against R181. -/
theorem test_pn_table :
    pnTable = pnRows 255 (List.replicate 8 true) := by decide +kernel

/-- 45_reed_solomon.md R220 against R221. -/
theorem test_exp_table :
    expTable = expRows 255 1 := by decide +kernel

/-- 45_reed_solomon.md R224 against R225. -/
theorem test_tal_table :
    talTable = (List.range 256).map talRow := by decide +kernel

/-- 45_reed_solomon.md R223, the coefficients for `E = 8`. -/
theorem test_generator_239 :
    (generator 8).reverse
      = [0x01, 0xA5, 0x69, 0x1B, 0x9F, 0x68, 0x98, 0x65, 0x4A, 0x65, 0x98, 0x68, 0x9F, 0x1B, 0x69, 0xA5, 0x01] := by decide +kernel

/-- 95_test_vectors.md V10-e. -/
theorem test_syndromes_of_last_symbol :
    syndromes 16 (List.replicate 254 0 ++ [1]) = List.replicate 32 1 := by decide +kernel

/-! ## One step of each row on a small state -/

/-- The result state of an instruction, or the state after reset where there is none. -/
def after (i : Instr) (s : State) : State :=
  match exec i s with
  | .next t => t
  | .fault _ => State.reset
  | .refused _ => State.reset

/-- BPSK, all stages off, marker `0x1D` of 8 bits, frames of 16 bits, acquisition at 8, check at 7, two good checks to lock, loss
at two misses. -/
def cfgSmall : CfgRegs :=
  { cfgReset with
    mode := 0, syncLen := 8, syncWordLo := 0x1D, frameBits := 16, acqThresh := 8, chkThresh := 7, lockCfg := 0x0202 }

/-- A run just begun under `cfgSmall`. -/
def begun : State := startRun { State.reset with cfg := cfgSmall }

/-- The bits of a byte at amplitude 100, most significant first (30_encoding.md R94). -/
def byteSoft (b : Byte) : List Soft :=
  [7, 6, 5, 4, 3, 2, 1, 0].map fun i => if b.getLsbD i then 100 else 0x9B

/-- A run under `cfgSmall` in which `bs` has been received, all bits available, the deframer as given. -/
def received (bs : List Byte) (d : Deframer) : State :=
  { begun with
    soft := bs.flatMap byteSoft, nv := 8 * bs.length, avail := 8 * bs.length, deframer := d }

/-- Searching at bit 0 with the clean marker in. -/
def atMarker : State := received [0x1D] deframerReset

/-- Collecting at bit 0 with marker and payload `0xCA` in. -/
def atFrameEnd : State :=
  received [0x1D, 0xCA] { deframerReset with lock := .syncing, phase := .collect }

/-- Checking at bit 16, in the given lock state, with `m` received where the marker is expected. -/
def atCheck (m : Byte) (lk : Lock) : State :=
  received [0x1D, 0xCA, m]
    { deframerReset with
      lock := lk, phase := .check, pos := 16, good := if lk = .synced then 2 else 1 }

/-- Two-byte frame `CA FE` with tag `0x10` queued, `k` bytes delivered (95_test_vectors.md V15-c). -/
def queued (k : Nat) : State :=
  { begun with queue := [{ bytes := [0xCA, 0xFE], tag := 0x10 }], txPos := k }

/-- The run's state at its last input bit, one value short. -/
def oneShort (s : State) : State :=
  { s with soft := s.soft.dropLast, nv := s.nv - 1, avail := s.avail - 1 }

/-- 47_host_commands.md R278. -/
theorem test_nop :
    exec .nop begun = .next begun := rfl

/-- 95_test_vectors.md V13: two failures, the first is reported. -/
theorem test_start_first_failure :
    (after .start { State.reset with cfg := { cfgReset with mode := 0x115C, syncLen := 0 } }).errors.cfgFail = 1 := by decide +kernel

/-- 95_test_vectors.md V13: `FRAME_BITS = 32`. -/
theorem test_start_frame_length :
    (after .start { State.reset with cfg := { cfgReset with frameBits := 32 } }).errors.cfgFail = 2 := by decide +kernel

/-- 95_test_vectors.md V14: `STOP` after and before the SOF beat. -/
theorem test_stop_aborts :
    (after .stop (queued 1)).errors.aborted = true ∧ (after .stop (queued 0)).errors.aborted = false := by decide +kernel

/-- 10_state.md R25 and 47_host_commands.md R273: RUN 2, OUT_CLOSED, ABORTED and IN_READY set. -/
theorem test_stop_state :
    statusWord (after .stop (queued 1)) = 0x00000388 := by decide +kernel

/-- 95_test_vectors.md V14: `STATUS = 0`, configuration kept. -/
theorem test_soft_reset :
    statusWord (after .softReset (queued 1)) = 0 ∧ (after .softReset (queued 1)).cfg = cfgSmall := by decide +kernel

/-- 42_deframer.md R165 with `AVAIL = 15`. -/
theorem test_resync :
    (after .resync (oneShort atFrameEnd)).deframer = { deframerReset with pos := 15 } := by decide +kernel

/-- 95_test_vectors.md V14: `RESYNC` in `IDLE`. -/
theorem test_resync_idle :
    (after .resync State.reset).errors = { errorsReset with cmdErr := true } := by decide +kernel

/-- 47_host_commands.md R276. -/
theorem test_clear_counters :
    (after .clearCounters { begun with counters := { countersReset with lastTag := 5, rsCorrTotal := List.replicate 8 3 } }).counters
      = countersReset := by decide +kernel

/-- 47_host_commands.md R277. -/
theorem test_clear_errors :
    (after .clearErrors { begun with errors := { errorsReset with wrErr := true, cfgFail := 7 } }).errors = errorsReset := by decide +kernel

/-- 95_test_vectors.md V14: `WR CMD, 0x11`. -/
theorem test_cmd_illegal :
    after (.cmdIllegal 0x11) begun = { begun with errors := { errorsReset with cmdErr := true } } := by decide +kernel

/-- 47_host_commands.md R270, the example. -/
theorem test_read_reset_mode :
    (after (.read 0x010) State.reset).answer = .rdata 0x00001144 := by decide +kernel

/-- 95_test_vectors.md V2: `HYP` reads 0x5B under index 3. -/
theorem test_read_hyp :
    (after (.read 0x058) { begun with deframer := { deframerReset with hyp := 3 } }).answer = .rdata 0x5B := by decide +kernel

/-- 47_host_commands.md R271, the example. -/
theorem test_write_masks :
    (after (.write 0x010 0xFFFFFFFF) State.reset).cfg.mode = 0x00003FFF := by decide +kernel

/-- 95_test_vectors.md V14: `WR FRAME_BITS, 64` in `RUNNING`. -/
theorem test_write_running :
    after (.write 0x020 64) begun = { begun with errors := { errorsReset with wrErr := true } } := by decide +kernel

/-- 42_deframer.md R153: the last bit (1) of a clean marker at bit 0 acquires. -/
theorem test_sym_acquires :
    (after (.sym 100) (oneShort atMarker)).deframer = { deframerReset with lock := .syncing, phase := .collect } := by decide +kernel

/-- 46_frame_chain.md R250 on one payload byte; the tag is that of 95_test_vectors.md V12. -/
theorem test_sym_emits :
    (after (.sym 0x9B) (oneShort atFrameEnd)).queue = [{ bytes := [0xCA], tag := 0x10 }] := by decide +kernel

/-- 40_streams.md R113: the completed frame is kept, then the stream ends. -/
theorem test_sym_last :
    (after (.symLast 0x9B) (oneShort atFrameEnd)).run = .done
      ∧ (after (.symLast 0x9B) (oneShort atFrameEnd)).queue.length = 1 := by decide +kernel

/-- 95_test_vectors.md V15-b: the odd value never becomes available. -/
theorem test_sym_last_qpsk_odd :
    (after (.symLast 0x9B) { begun with cfg := { cfgSmall with mode := 1 }, soft := [100, 100], nv := 2, avail := 2 }).avail = 2 := by decide +kernel

/-- 95_test_vectors.md V15-c, first beat. -/
theorem test_pop_first :
    (after .pop (queued 0)).answer = .beat { data := 0xCA, sof := true, eof := false, tag := 0 }
      ∧ (after .pop (queued 0)).queue.length = 1 := by decide +kernel

/-- 95_test_vectors.md V15-c, second beat. -/
theorem test_pop_last :
    after .pop (queued 1)
      = { begun with answer := .beat { data := 0xFE, sof := false, eof := true, tag := 0x10 } } := by decide +kernel

/-- 41_correlator.md R132: `inv8(−128) = 127`. -/
theorem test_hyp_bpsk :
    (after (.hypBpsk 0 1) { begun with soft := [0x80] }).answer = .soft 127 := by decide +kernel

/-- 95_test_vectors.md V2: `T_h(10, −20)` for every index. -/
theorem test_hyp_qpsk :
    [0, 1, 2, 3, 4, 5, 6, 7].map (fun h => (transform h (10, 0xEC)))
      = [(10, 0xEC), (0xF5, 19), (19, 10), (0xEC, 0xF5), (0xEC, 10), (19, 0xF5), (0xF5, 0xEC), (10, 19)] := by decide +kernel

/-- 41_correlator.md R133: the Q component of symbol 1, `(100, −101)` under index 2. -/
theorem test_hyp_qpsk_odd :
    (after (.hypQpsk 3 2) { begun with soft := [1, 2, 100, 0x9B] }).answer = .soft 100 := by decide +kernel

/-- 41_correlator.md R135 on the clean marker: `L` and 0. -/
theorem test_score_hard :
    (after (.scoreHard 0 0) atMarker).answer = .score 8 ∧ (after (.scoreHard 0 1) atMarker).answer = .score 0 := by decide +kernel

/-- 41_correlator.md R136: `8 · 100` and `−8 − 800`. -/
theorem test_score_soft :
    (after (.scoreSoft 0 0) atMarker).answer = .score 800 ∧ (after (.scoreSoft 0 1) atMarker).answer = .score (-808) := by decide +kernel

/-- 95_test_vectors.md V3-d, the tie: 0x12 agrees with 0x1D in four bits. -/
theorem test_correlate_held :
    (after (.correlate 0) { received [0x12] deframerReset with deframer := { deframerReset with hyp := 1 } }).answer = .best 1 4
      ∧ (after (.correlate 0) (received [0x12] deframerReset)).answer = .best 0 4 := by decide +kernel

/-- 95_test_vectors.md V6-a. -/
theorem test_derand :
    (after (.derand (byteSoft 0xCA ++ byteSoft 0xFE)) begun).answer = .softs (byteSoft 0x35 ++ byteSoft 0xB6) := by decide +kernel

/-- 95_test_vectors.md V7, the soft corner case. -/
theorem test_nrzm :
    after (.nrzm 0x80) { begun with lastBit := true } = { begun with lastBit := false, answer := .soft 127 } := by decide +kernel

/-- 95_test_vectors.md V7: `LASTBIT = 0` maps 0 to −1. -/
theorem test_nrzs :
    after (.nrzs 0) begun = { begun with lastBit := true, answer := .soft 0xFF } := by decide +kernel

/-- 95_test_vectors.md V7, first row. -/
theorem test_diff_frame :
    (diffRun 1 true [100, 100, 0x9B, 0x9B, 100]).1.map hard = [false, false, true, false, true]
      ∧ (diffRun 2 true [100, 100, 0x9B, 0x9B, 100]).1.map hard = [true, true, false, true, false] := by decide +kernel

/-- 95_test_vectors.md V8. -/
theorem test_hard_pack :
    (after (.hardPack [100, 0x9B, 0x9B, 100, 100, 100, 100, 0x9B]) begun).answer = .bytes [0x9E] := by decide +kernel

/-- 95_test_vectors.md V9-a. -/
theorem test_vit_encoder :
    encodeFrom (vitCode cfgReset) 0 [true, false, false, false, false, false, false, false]
      = [(true, false), (true, true), (true, false), (true, false), (false, true), (false, false), (true, false),
          (false, true)] := by decide +kernel

/-- 95_test_vectors.md V9-a, for the code bits in the terms of the statements. -/
theorem test_path_bits :
    pathBits (vitCode cfgReset) 0 [true, false, false, false, false, false, false, false]
      = [true, false, true, true, true, false, true, false, false, true, false, false, true, false, false, true] := by decide +kernel

/-- 95_test_vectors.md V9-b. -/
theorem test_vit_cost :
    [0, 0xFF, 0x80, 127].map (fun y => (cost y true, cost y false)) = [(127, 128), (128, 127), (255, 0), (0, 255)] := by decide +kernel

/-- 45_reed_solomon.md R228 and R232: the all-zero codeword with one wrong symbol, `I = 1`, parity dropped. -/
theorem test_rs_corrects :
    rsDecodeFrame { cfgReset with mode := 0x04C0 } true (List.replicate 254 0 ++ [0x55])
      = { bytes := List.replicate 239 0, count := [1], uncorr := [false] } := by decide +kernel

/-- 45_reed_solomon.md R228: a codeword is returned as it is; `TALTAB[0] = 0` in the dual basis. -/
theorem test_rs_syndromes_223 :
    (after (.rsDecode223 (List.replicate 255 0)) { begun with cfg := { cfgSmall with mode := 0x0740 } }).answer
      = .corrected (List.replicate 255 0) [0] [false] := by decide +kernel

/-- 43_descrambler.md R191 with the first failing check of 47_host_commands.md R272. -/
theorem test_diff_reserved :
    (after .diffReserved { State.reset with cfg := { cfgReset with syncLen := 0 } }).errors = { errorsReset with cfgErr := true, cfgFail := 1 } := by decide +kernel

/-- 42_deframer.md R153: one wrong bit scores 7, below the threshold 8; the window slides. -/
theorem test_acq_eval :
    (after .acqEval (received [0x1C] deframerReset)).deframer.pos = 1
      ∧ (after .acqEval (received [0x1C] deframerReset)).counters.lastScore = 7 := by decide +kernel

/-- 42_deframer.md R155. -/
theorem test_collect :
    (after .collect atFrameEnd).deframer = { deframerReset with lock := .syncing, phase := .check, pos := 16 } := by decide +kernel

/-- 42_deframer.md R158: score 7 passes, the second good check locks. -/
theorem test_check_locks :
    (after .checkEval (atCheck 0x1C .syncing)).deframer
      = { deframerReset with lock := .synced, phase := .collect, good := 2, pos := 16 } := by decide +kernel

/-- 42_deframer.md R159: one miss below `LOSS_THRESH = 2`. -/
theorem test_check_tolerates :
    (after .checkEval (atCheck 0xE2 .synced)).deframer
      = { deframerReset with lock := .synced, phase := .collect, good := 2, miss := 1, flag := true, pos := 16 } := by decide +kernel

/-- 46_frame_chain.md R250, R254: hard payload, tag of a frame in `SYNCING`. -/
theorem test_frame_emit :
    (after .frameEmit atFrameEnd).queue = [{ bytes := [0xCA], tag := 0x10 }] := by decide +kernel

/-- By hand from 46_frame_chain.md R250: `0xCA` XOR `PN[0] = 0xFF` is `0x35`, then NRZ-M after the last marker bit 1; in the other
order it would be `0xD0`. -/
theorem test_frame_emit_derand_then_diff :
    (after .frameEmit { atFrameEnd with cfg := { cfgSmall with mode := 0x0C } }).queue
      = [{ bytes := [0xAF], tag := 0x10 }] := by decide +kernel

/-- 95_test_vectors.md V12. -/
theorem test_tags :
    makeTag cfgSmall true .synced [] 0 = 0x00000021
      ∧ makeTag { cfgReset with mode := 0x20 } false .syncing [] 70000 = 0xFFFF0018
      ∧ makeTag cfgReset false .synced [false, true, false, true] 0 = 0x00000A26 := by decide +kernel

/-! ## The step around an instruction -/

/-- The next state of a step, none where it stops. -/
def stepped (s : State) : Option State :=
  match step s with
  | .next t => some t
  | .fault _ => none
  | .refused _ => none

/-- 30_encoding.md R83: word 4 is `RESYNC`; from reset it only sets `CMD_ERR`. -/
theorem test_step_runs_table_word :
    stepped (State.reset.withFetchWord 32 0x00000004) = some (after .resync State.reset) := by decide +kernel

/-- 30_encoding.md R85: beat `0x164` (95_test_vectors.md P1) in a run just begun. -/
theorem test_step_runs_beat :
    stepped (State.reset.withFetchWord 16 0x0164) = some (after (.symLast 100) (startRun State.reset)) := by decide +kernel

/-- 40_streams.md R111, R112: in `IDLE` the producer holds the beat. -/
theorem test_step_holds_beat :
    stepped { State.reset with offers := [{ port := .input, bytes := [0x64, 0x00] }] }
      = some { State.reset with offers := [{ port := .input, bytes := [0x64, 0x00] }] } := by decide +kernel

/-- 70_reset_and_hazards.md R330. -/
theorem test_step_reset :
    stepped { queued 1 with offers := [{ port := .reset, bytes := [] }] } = some State.reset := by decide +kernel

/-- 20_memory.md R66. -/
theorem test_step_refuses_misaligned :
    step { State.reset with offers := [{ port := .host, bytes := [0x02, 0, 0, 0, 0, 0] }] }
      = .refused (.badEncoding .misalignedOffset) := rfl

/-! ## Witnesses: the hypotheses of each statement can be met, clause by clause -/

theorem cfgSmall_passes : startFail cfgSmall = 0 := by
  have h := Config.maxFrameBits_ge
  rw [startFail_eq_zero_iff]
  refine ⟨by decide +kernel, ?_, by decide +kernel, by decide +kernel, by decide +kernel, by decide +kernel,
    by decide +kernel⟩
  rw [failsFrameLen, decide_eq_false_iff_not, show framePeriod cfgSmall = 16 from rfl,
    show markerLen cfgSmall = 8 from rfl]
  omega

theorem not_fails_two {c : CfgRegs} (h1 : markerLen c < framePeriod c) (h2 : framePeriod c ≤ 72) :
    ¬ StartCheckFails c 2 := by
  have h := Config.maxFrameBits_ge
  simp only [StartCheckFails]
  omega

theorem cfgSmall_legal : ConfigLegal cfgSmall := by
  intro k
  match k with
  | 0 => exact id
  | 1 => exact (by decide +kernel : ¬ (markerLen cfgSmall < 1 ∨ 64 < markerLen cfgSmall))
  | 2 => exact not_fails_two (by decide +kernel) (by decide +kernel)
  | 3 =>
    exact (by decide +kernel : ¬ ((framePeriod cfgSmall - markerLen cfgSmall) % 8 ≠ 0
      ∨ (vitEn cfgSmall = true ∧ (framePeriod cfgSmall - markerLen cfgSmall) % 16 ≠ 0)))
  | 4 => exact (by decide +kernel : ¬ diffMode cfgSmall = 3)
  | 5 => exact fun h => absurd h.1 (by decide +kernel)
  | 6 => exact fun h => absurd h.1 (by decide +kernel)
  | 7 => exact (by decide +kernel : ¬ (goodToLock cfgSmall = 0 ∨ lossThresh cfgSmall = 0))
  | _ + 8 => exact id

theorem room_begun : begun.queue.length < Config.outCap := Config.outCap_pos

/-- A held beat stands before the accepted offer; a reset is accepted; every offer is held. -/
theorem witness_StepRunsDecodedOffer :
    takeOffer { State.reset with offers := [offerOf (.sym 1), offerOf .start] } [offerOf (.sym 1), offerOf .start]
        = some (offerOf .start, [offerOf (.sym 1)])
      ∧ (offerOf .start).port ≠ .reset
      ∧ decode (offerOf .start).port (offerOf .start).bytes = .ok .start
      ∧ wf .start = true ∧ portReady State.reset (portOf .start) = true
      ∧ takeOffer begun [{ port := .reset, bytes := [] }] = some ({ port := .reset, bytes := [] }, [])
      ∧ (∀ o ∈ [offerOf (.sym 1), offerOf .pop], portReady State.reset o.port = false) := by
  exact ⟨by decide +kernel, by decide, rfl, rfl, rfl, by decide +kernel, by decide +kernel⟩

theorem witness_DecodeEncodeRoundTrip :
    wf (.cmdIllegal 7) = true ∧ wf (.read 0xFFC) = true ∧ wf (.hypBpsk (2 ^ 64 - 1) 1) = true
      ∧ wf (.vitDecode (List.replicate 16 0)) = true ∧ wf (.rsDecode239 (List.replicate 2040 0)) = true := by
  decide +kernel

theorem witness_MisalignedAndNarrowAccessesRefused :
    (0x001 : BitVec 12).toNat % 4 ≠ 0 ∧ (0xFFF : BitVec 12).toNat % 4 ≠ 0
      ∧ ({ State.reset with offers := [{ port := .host, bytes := [0x18] }] } : State).offers
          = [{ port := .host, bytes := [0x18] }]
      ∧ ([0x18] : List Byte).length ≠ 6
      ∧ ({ State.reset with offers := [{ port := .host, bytes := [0x43, 0x00, 0x06, 0x00, 0x00, 0x00] }] } : State).offers
          = [{ port := .host, bytes := leBytes 6 (1 + 2 * (0x021 : BitVec 12).toNat + 2 ^ 13 * (48 : Word).toNat) }]
      ∧ (0x021 : BitVec 12).toNat % 4 ≠ 0 := by
  decide +kernel

theorem witness_ReadAnswersRegisterValue :
    ([0x000, 0x008, 0x030, 0x034, 0x03C, 0x060, 0x064, 0x07C, 0x0C8, 0x0CC, 0xFFC] : List (BitVec 12)).all
        (fun off => off.toNat % 4 = 0) = true
      ∧ (0x080 : BitVec 12).toNat = 0x080 + 4 * 0 ∧ (0x0BC : BitVec 12).toNat = 0x0A0 + 4 * 7 := by
  decide +kernel

theorem witness_WriteFollowsAccessClass :
    State.reset.run = .idle ∧ begun.run ≠ .idle
      ∧ ([0x000, 0x004, 0x00C, 0x010, 0x030, 0x034, 0x03C, 0x040, 0x060, 0x064, 0x07C, 0x080, 0x0C8, 0x0CC, 0xFFC]
          : List (BitVec 12)).all (fun off => off.toNat % 4 = 0) = true := by
  decide +kernel

theorem witness_StatusFields :
    ({ begun with deframer := { deframerReset with good := 255, miss := 255 } } : State).deframer.good ≤ 255
      ∧ ({ begun with deframer := { deframerReset with good := 255, miss := 255 } } : State).deframer.miss ≤ 255 := by
  decide +kernel

/-- A legal configuration, and a first failing check of each number. -/
theorem witness_StartValidatesAndBegins :
    State.reset.run = .idle ∧ begun.run ≠ .idle ∧ ConfigLegal cfgSmall
      ∧ StartCheckFails { cfgSmall with syncLen := 65 } 1
      ∧ StartCheckFails { cfgSmall with frameBits := 8 } 2
      ∧ (StartCheckFails { cfgSmall with mode := 0x20 } 3
        ∧ ∀ j, j < 3 → ¬ StartCheckFails { cfgSmall with mode := 0x20 } j)
      ∧ StartCheckFails { cfgSmall with mode := 0x18 } 4
      ∧ StartCheckFails { cfgSmall with mode := 0x20, frameBits := 24, vitCfg := 0x008B6792 } 5
      ∧ StartCheckFails { cfgSmall with mode := 0x2440 } 6
      ∧ StartCheckFails { cfgSmall with lockCfg := 0x0200 } 7 := by
  refine ⟨rfl, by decide +kernel, cfgSmall_legal, ?_, ?_, ⟨?_, ?_⟩, ?_, ?_, ?_, ?_⟩
  · exact Or.inr (by decide +kernel)
  · exact fun h => absurd h.1 (by decide +kernel)
  · exact Or.inr (by decide +kernel)
  · intro j hj
    match j, hj with
    | 0, _ => exact id
    | 1, _ =>
      exact (by decide +kernel : ¬ (markerLen { cfgSmall with mode := 0x20 } < 1
        ∨ 64 < markerLen { cfgSmall with mode := 0x20 }))
    | 2, _ => exact not_fails_two (by decide +kernel) (by decide +kernel)
  · exact (by decide +kernel : diffMode { cfgSmall with mode := 0x18 } = 3)
  · exact ⟨by decide +kernel, Or.inl (by decide +kernel)⟩
  · exact ⟨by decide +kernel, Or.inr (Or.inl (by decide +kernel))⟩
  · exact Or.inl (by decide +kernel)

theorem witness_StopDiscardsAndCloses :
    (queued 1).run ≠ .idle ∧ (queued 1).queue ≠ [] ∧ 0 < (queued 1).txPos ∧ State.reset.run = .idle := by
  decide +kernel

theorem witness_ResyncRestartsSearch : atFrameEnd.run = .running ∧ State.reset.run ≠ .running := by decide +kernel

theorem witness_IllegalCommandsOnlySetCmdErr :
    (0x10 : Word) >>> 4 ≠ 0 ∧ (0xFFFFFFFF : Word) >>> 4 ≠ 0 ∧ 7 ≤ ((7 : Word) &&& 0xF).toNat
      ∧ (IsCommand .start .start 1 ∧ begun.run ≠ .idle)
      ∧ (IsCommand (.write 0x008 2) .stop 2 ∧ State.reset.run = .idle)
      ∧ (IsCommand .resync .resync 4 ∧ State.reset.run ≠ .running) :=
  ⟨by decide, by decide, by decide, ⟨Or.inl rfl, by decide +kernel⟩, ⟨Or.inr rfl, rfl⟩, Or.inl rfl, by decide +kernel⟩

theorem witness_DiffModeThreeRefused :
    State.reset.run = .idle ∧ begun.run ≠ .idle ∧ diffMode { cfgSmall with mode := 0x18 } = 3
      ∧ ¬ StartCheckFails cfgSmall 1 ∧ ¬ StartCheckFails cfgSmall 2 ∧ ¬ StartCheckFails cfgSmall 3 :=
  ⟨rfl, by decide +kernel, by decide +kernel, cfgSmall_legal 1, cfgSmall_legal 2, cfgSmall_legal 3⟩

/-- BPSK, QPSK with an even count, QPSK with an odd count. -/
theorem witness_SymMakesBitsAvailable :
    begun.run = .running ∧ begun.queue.length < Config.outCap ∧ begun.avail = newAvail begun.cfg begun.nv
      ∧ isQpsk cfgSmall = false ∧ isQpsk { cfgSmall with mode := 1 } = true
      ∧ newAvail { cfgSmall with mode := 1 } 2 = 2 ∧ newAvail { cfgSmall with mode := 1 } 3 = 2 :=
  ⟨rfl, room_begun, rfl, by decide +kernel, by decide +kernel, by decide +kernel, by decide +kernel⟩

theorem witness_SymLastIsSymThenEnd : begun.run = .running ∧ begun.queue.length < Config.outCap := ⟨rfl, room_begun⟩

theorem witness_ClosedRunDiscardsBeats :
    (after .stop begun).run = .stopped ∧ ({ begun with run := .done } : State).run = .done ∧ State.reset.run = .idle := by
  decide +kernel

theorem witness_PopDeliversHeadByte :
    (queued 0).queue = [{ bytes := [0xCA, 0xFE], tag := 0x10 }]
      ∧ (queued 0).txPos + 1 < ([0xCA, 0xFE] : List Byte).length
      ∧ (queued 1).txPos + 1 = ([0xCA, 0xFE] : List Byte).length := by
  decide +kernel

theorem witness_HypRegisterFields : ({ begun with deframer := { deframerReset with hyp := 1 } } : State).deframer.hyp.toNat < 2 := by
  decide +kernel

theorem witness_HypResults :
    0 < ({ begun with soft := [0x80] } : State).soft.length
      ∧ 2 * (3 / 2) + 1 < ({ begun with soft := [1, 2, 3, 4] } : State).soft.length := by
  decide +kernel

theorem witness_DeframerRowsAreTheBitStep :
    (atMarker.run = .running ∧ atMarker.avail = 7 + 1 ∧ atMarker.deframer.phase = .search)
      ∧ (atFrameEnd.run = .running ∧ atFrameEnd.avail = 15 + 1 ∧ atFrameEnd.deframer.phase = .collect)
      ∧ ((atCheck 0x1D .synced).run = .running ∧ (atCheck 0x1D .synced).avail = 23 + 1
        ∧ (atCheck 0x1D .synced).deframer.phase = .check)
      ∧ (oneShort atMarker).avail = 6 + 1 := by
  decide +kernel

/-- The best score at the threshold and one below it. -/
theorem witness_AcquisitionAttempt :
    atMarker.run = .running ∧ atMarker.deframer.phase = .search
      ∧ atMarker.avail = atMarker.deframer.pos + markerLen atMarker.cfg
      ∧ atMarker.cfg.acqThresh.toInt = bestScore atMarker.cfg atMarker.soft atMarker.deframer.pos
      ∧ bestScore cfgSmall (received [0x1C] deframerReset).soft 0 < cfgSmall.acqThresh.toInt := by
  decide +kernel

theorem witness_CollectEmitsThenExpectsMarker :
    atFrameEnd.run = .running ∧ atFrameEnd.deframer.phase = .collect
      ∧ atFrameEnd.avail = atFrameEnd.deframer.pos + framePeriod atFrameEnd.cfg := by
  decide +kernel

/-- A check in `SYNCING` at the threshold with the last and with an earlier good count, and one below the threshold. -/
theorem witness_CheckWhileSyncing :
    (atCheck 0x1C .syncing).run = .running ∧ (atCheck 0x1C .syncing).deframer.phase = .check
      ∧ (atCheck 0x1C .syncing).deframer.lock = .syncing
      ∧ (atCheck 0x1C .syncing).avail = (atCheck 0x1C .syncing).deframer.pos + markerLen cfgSmall
      ∧ cfgSmall.chkThresh.toInt = score cfgSmall (atCheck 0x1C .syncing).soft 0 16
      ∧ goodToLock cfgSmall = (atCheck 0x1C .syncing).deframer.good + 1 ∧ 0 + 1 < goodToLock cfgSmall
      ∧ score cfgSmall (atCheck 0x1E .syncing).soft 0 16 + 1 = cfgSmall.chkThresh.toInt := by
  decide +kernel

/-- A check in `SYNCED` at the threshold, one below it with a first miss, and with the last miss. -/
theorem witness_CheckWhileSynced :
    (atCheck 0x1C .synced).run = .running ∧ (atCheck 0x1C .synced).deframer.phase = .check
      ∧ (atCheck 0x1C .synced).deframer.lock = .synced
      ∧ (atCheck 0x1C .synced).avail = (atCheck 0x1C .synced).deframer.pos + markerLen cfgSmall
      ∧ cfgSmall.chkThresh.toInt = score cfgSmall (atCheck 0x1C .synced).soft 0 16
      ∧ score cfgSmall (atCheck 0x1E .synced).soft 0 16 + 1 = cfgSmall.chkThresh.toInt
      ∧ (atCheck 0x1E .synced).deframer.miss + 1 < lossThresh cfgSmall ∧ lossThresh cfgSmall = 1 + 1 := by
  decide +kernel

/-- The complemented marker acquires with hypothesis 1. -/
theorem witness_HypChangesOnlyAtAcquisition :
    (deframerBit 7 (received [0xE2] deframerReset)).deframer.hyp ≠ (received [0xE2] deframerReset).deframer.hyp
      ∧ (after .acqEval (received [0xE2] deframerReset)).deframer.hyp = 1
      ∧ (after .softReset { begun with deframer := { deframerReset with hyp := 1 } }).deframer.hyp = 0 := by
  decide +kernel

/-- Every check but that of the frame length passes, given in one decidable conjunction. -/
theorem checks_pass_but_two {c : CfgRegs}
    (h : (1 ≤ markerLen c ∧ markerLen c ≤ 64) ∧ (framePeriod c - markerLen c) % 8 = 0
      ∧ (vitEn c = true → (framePeriod c - markerLen c) % 16 = 0) ∧ diffMode c ≠ 3
      ∧ (vitEn c = true → codeLegal (vitCode c) = true)
      ∧ (rsEn c = true → 1 ≤ rsDepth c ∧ rsDepth c ≤ 8 ∧ bytesIn c = 255 * rsDepth c)
      ∧ goodToLock c ≠ 0 ∧ lossThresh c ≠ 0) : ∀ k, k ≠ 2 → ¬ StartCheckFails c k := by
  obtain ⟨h1, h3, h3', h4, h5, h6, h7⟩ := h
  intro k hk
  match k with
  | 0 => exact id
  | 1 => simp only [StartCheckFails]; omega
  | 2 => exact absurd rfl hk
  | 3 => rintro (h | h); exacts [h h3, h.2 (h3' h.1)]
  | 4 => exact h4
  | 5 =>
    rintro ⟨hv, h⟩
    have := (codeLegal_iff _).1 (h5 hv)
    omega
  | 6 =>
    rintro ⟨hr, h⟩
    have := h6 hr
    omega
  | 7 => rintro (h | h); exacts [h7.1 h, h7.2 h]
  | _ + 8 => exact id

/-- A frame just complete at bit 0 under another `MODE` and `FRAME_BITS`, whatever was received. -/
def frameDue (mode frameBits : Word) : State :=
  { atFrameEnd with cfg := { cfgSmall with mode := mode, frameBits := frameBits }, avail := frameBits.toNat }

/-- All stages off; derandomizer, NRZ-M and Viterbi decoder on; Reed-Solomon of depth 1 on alone and with NRZ-S. -/
theorem witness_FrameEmitQueuesOneFrame :
    atFrameEnd.run = .running ∧ atFrameEnd.deframer.phase = .collect
      ∧ atFrameEnd.counters.rsCorrTotal.length = 8
      ∧ (∀ s ∈ [atFrameEnd, frameDue 0x2C 24, frameDue 0x440 2048, frameDue 0x6D0 2048],
        s.avail = s.deframer.pos + framePeriod s.cfg ∧ markerLen s.cfg < framePeriod s.cfg
          ∧ ∀ k, k ≠ 2 → ¬ StartCheckFails s.cfg k) := by
  refine ⟨rfl, rfl, rfl, ?_⟩
  intro s hs
  fin_cases hs
  all_goals exact ⟨by decide +kernel, by decide +kernel, checks_pass_but_two (by decide +kernel)⟩

theorem witness_TagFields : ([] : List Bool).length ≤ 8 ∧ (List.replicate 8 true).length ≤ 8 := by decide

theorem witness_UncodedFrameIsHardPayload :
    atFrameEnd.run = .running ∧ atFrameEnd.deframer.phase = .collect
      ∧ atFrameEnd.avail = atFrameEnd.deframer.pos + framePeriod atFrameEnd.cfg
      ∧ ConfigLegal atFrameEnd.cfg ∧ derandEn atFrameEnd.cfg = false ∧ diffMode atFrameEnd.cfg = 0
      ∧ vitEn atFrameEnd.cfg = false ∧ rsEn atFrameEnd.cfg = false :=
  ⟨rfl, rfl, by decide +kernel, cfgSmall_legal, by decide +kernel, by decide +kernel, by decide +kernel, by decide +kernel⟩

theorem witness_HardPackBits : (byteSoft 0x9E).length % 8 = 0 := by decide +kernel

/-- Byte 1 of two, and byte 255 of 256, where the sequence wraps. -/
theorem witness_DerandXorsHardBytes :
    (byteSoft 0xCA ++ byteSoft 0xFE).length % 8 = 0 ∧ 1 < (byteSoft 0xCA ++ byteSoft 0xFE).length / 8
      ∧ (List.replicate 2048 (100 : Soft)).length % 8 = 0 ∧ 255 < (List.replicate 2048 (100 : Soft)).length / 8 := by
  decide +kernel

theorem witness_DiffStatements : (1 : Nat) ≠ 0 ∧ (2 : Nat) ≠ 0 := by decide

/-- The reset code, the shortest and the longest constraint length; and one that `START` refuses. -/
theorem witness_VitDecodeResult :
    codeLegal (vitCode cfgReset) = true ∧ codeLegal { k := 3, g1 := 7, g2 := 5, inv1 := false, inv2 := false } = true
      ∧ codeLegal { k := 9, g1 := 511, g2 := 1, inv1 := false, inv2 := true } = true
      ∧ (List.replicate 16 (0 : Soft)).length % 16 = 0 ∧ List.replicate 16 (0 : Soft) ≠ [] := by
  decide +kernel

/-- A run with the code `K = 3`, generators 7 and 5. -/
def begunK3 : State := { begun with cfg := { cfgSmall with vitCfg := 0x0000A073 } }

/-- From state 0 the message `1, 0` gives the symbols `11, 10`, and no other start state and message does. -/
theorem witness_ViterbiRecoversCleanFrame :
    codeLegal (vitCode begunK3.cfg) = true ∧ (∀ q, begunK3.pm.getD q 0 = 0)
      ∧ (0 : Nat) < 2 ^ ((vitCode begunK3.cfg).k - 1)
      ∧ ([100, 100, 100, 0x9B] : List Soft).length = 2 * [true, false].length
      ∧ (pairsOf [100, 100, 100, 0x9B]).map (fun y => (hard y.1, hard y.2))
          = encodeFrom (vitCode begunK3.cfg) 0 [true, false]
      ∧ ∀ (st' : Nat) (msg' : List Bool), st' < 2 ^ ((vitCode begunK3.cfg).k - 1) → msg'.length = [true, false].length →
          encodeFrom (vitCode begunK3.cfg) st' msg' = encodeFrom (vitCode begunK3.cfg) 0 [true, false] →
            st' = 0 ∧ msg' = [true, false] := by
  refine ⟨by decide +kernel, ?_, by decide +kernel, rfl, by decide +kernel, ?_⟩
  · intro q
    show (List.replicate 256 0).getD q 0 = 0
    rw [List.getD_eq_getElem?_getD, List.getElem?_replicate]
    split <;> rfl
  · have all : ∀ st' < 4, ∀ a b : Bool,
        encodeFrom (vitCode begunK3.cfg) st' [a, b] = encodeFrom (vitCode begunK3.cfg) 0 [true, false] →
          st' = 0 ∧ [a, b] = [true, false] := by decide +kernel
    intro st' msg' hst hlen
    match msg', hlen with
    | [a, b], _ => exact all st' hst a b

theorem witness_UnselectedOperationsChangeNothing :
    ¬ (begun.run = .running ∧ begun.deframer.phase = .search
        ∧ begun.avail = begun.deframer.pos + markerLen begun.cfg)
      ∧ ¬ (begun.run = .running ∧ begun.deframer.phase = .check
        ∧ begun.avail = begun.deframer.pos + markerLen begun.cfg)
      ∧ ¬ (begun.run = .running ∧ begun.deframer.phase = .collect
        ∧ begun.avail = begun.deframer.pos + framePeriod begun.cfg)
      ∧ codeLegal (vitCode { cfgSmall with vitCfg := 0x008B6792 }) = false
      ∧ ¬ (1 ≤ rsDepth cfgSmall ∧ rsDepth cfgSmall ≤ 8 ∧ (List.replicate 255 (0 : Byte)).length = 255 * rsDepth cfgSmall)
      := by
  decide +kernel

theorem witness_RsAcceptedWordIsCodeword :
    (List.replicate 255 (0 : Byte)).length = 255
      ∧ rsCwDecode (rsCapability true) (List.replicate 255 0) = some (List.replicate 255 0, 0) := by
  decide +kernel

theorem witness_RsFrameStatements :
    rsDepth { cfgSmall with mode := 0x0640 } = 1 ∧ rsKeepParity { cfgSmall with mode := 0x0640 } = true
      ∧ rsDepth { cfgSmall with mode := 0x20C0 } = 8 ∧ rsKeepParity { cfgSmall with mode := 0x20C0 } = false
      ∧ (List.replicate 2040 (0 : Byte)).length = 255 * rsDepth { cfgSmall with mode := 0x20C0 } := by
  decide +kernel

/-- The machine's invariant in a run that is one bit short of its marker, with that bit offered. -/
theorem machineInv_oneShort : MachineInv { oneShort atMarker with offers := [offerOf (.sym 100)] } where
  reserved := by unfold ReservedZero; decide +kernel
  latched := fun _ => cfgSmall_passes
  idleClean := fun h => absurd h (by decide +kernel)
  stream := by unfold StreamInv; decide +kernel
  deframer :=
    { phase_iff := by decide +kernel
      flag_synced := by decide +kernel
      good_syncing := by decide +kernel
      good_le := by decide +kernel
      miss_zero := by decide +kernel
      miss_lt := by decide +kernel
      window_ahead := by decide +kernel
      frame_ahead := by decide +kernel }
  queue :=
    { le_cap := Nat.zero_le _
      stopped_empty := by decide +kernel
      frame_len := by intro f hf; cases hf
      tx_lt := Nat.zero_lt_one }
  shape := by unfold ShapeInv; decide +kernel

theorem witness_StepKeepsMachineInvariant :
    MachineInv { oneShort atMarker with offers := [offerOf (.sym 100)] }
      ∧ step { oneShort atMarker with offers := [offerOf (.sym 100)] } = .next (after (.sym 100) (oneShort atMarker)) :=
  ⟨machineInv_oneShort, rfl⟩

theorem witness_EveryRunStaysSafe :
    Reaches { State.reset with offers := [offerOf (.write 0x010 0), offerOf .stop] }
      (after .stop (after (.write 0x010 0) State.reset)) :=
  .tail (.tail (.refl _) (u := { after (.write 0x010 0) State.reset with offers := [offerOf .stop] }) rfl) rfl

theorem witness_RunStateTransitionsComplete :
    exec (.symLast 0) { begun with run := .running } = .next (after (.symLast 0) begun)
      ∧ (after (.symLast 0) begun).run = .done ∧ inReady begun = true
      ∧ State.reset.run = .idle ∧ ConfigLegal cfgSmall ∧ IsCommand (.write 0x008 1) .start 1
      ∧ IsCommand .stop .stop 2 ∧ IsCommand (.write 0x008 3) .softReset 3 :=
  ⟨rfl, by decide +kernel, by decide +kernel, rfl, cfgSmall_legal, Or.inr rfl, Or.inl rfl, Or.inr rfl⟩

theorem witness_ConfigurationChangesOnlyInIdle :
    exec (.write 0x010 0) State.reset = .next (after (.write 0x010 0) State.reset)
      ∧ (after (.write 0x010 0) State.reset).cfg ≠ State.reset.cfg :=
  ⟨rfl, by decide +kernel⟩

theorem witness_QueueIsFifo :
    MachineInv { oneShort atMarker with offers := [offerOf (.sym 100)] }
      ∧ exec .pop { oneShort atMarker with offers := [offerOf (.sym 100)] }
        = .next { oneShort atMarker with offers := [offerOf (.sym 100)] } :=
  ⟨machineInv_oneShort, rfl⟩

theorem witness_ErrorBitsAreSticky :
    exec .start { State.reset with cfg := { cfgReset with syncLen := 0 } }
        = .next (after .start { State.reset with cfg := { cfgReset with syncLen := 0 } })
      ∧ (after .start { State.reset with cfg := { cfgReset with syncLen := 0 } }).errors.cfgFail ≠ 0
      ∧ ¬ IsCommand .start .clearErrors 6 ∧ ¬ IsCommand .start .softReset 3 :=
  ⟨rfl, by decide +kernel, by simp [IsCommand], by simp [IsCommand]⟩

end Sys2Proof.Tests
end

section
/-! SUPPORT. The decoder on encoded instructions, port by port, and the round trip of every well-formed instruction. -/

namespace Sys2Proof

/-! ## Operand fields -/

/-- The two bytes of a `MODE` word give the fields of that word. -/
theorem modeField_bytes {m : Nat} (hm : m < 2 ^ 16) (lo width : Nat) :
    modeField (BitVec.ofNat 8 m) (BitVec.ofNat 8 (m / 256)) lo width = m / 2 ^ lo % 2 ^ width := by
  have word : m % 256 + 256 * (m / 256 % 256) = m := by omega
  simp only [modeField, BitVec.toNat_ofNat, Nat.reducePow, word]

/-- A unit's two `MODE` bytes stand before its operands. -/
theorem leBytes_two_append (m : Nat) (rest : List Byte) :
    leBytes 2 m ++ rest = BitVec.ofNat 8 m :: BitVec.ofNat 8 (m / 256) :: rest := rfl

theorem ofLeBytes_leBytes_index {n : Nat} (hn : wfIndex n = true) : ofLeBytes (leBytes 8 n) = n := by
  have hlt : n < 2 ^ 64 := of_decide_eq_true hn
  exact ofLeBytes_leBytes (by omega)

theorem ofLeBytes_take_index {n : Nat} (hn : wfIndex n = true) (h : Nat) :
    ofLeBytes ((leBytes 8 n ++ leBytes 1 h).take 8) = n := by
  rw [List.take_left' (leBytes_length 8 n), ofLeBytes_leBytes_index hn]

theorem ofLeBytes_drop_hypothesis (n : Nat) {h : Nat} (hh : h < 256) :
    ofLeBytes ((leBytes 8 n ++ leBytes 1 h).drop 8) = h := by
  rw [List.drop_left' (leBytes_length 8 n), ofLeBytes_leBytes (by simpa using hh)]

/-! ## Command words (30_encoding.md R82 to R84) -/

theorem decodeCmd_leBytes (w : Word) : decodeCmd (leBytes 4 w.toNat) = .ok (decodeCommand w) := by
  rw [decodeCmd, if_pos (leBytes_length 4 _), ofLeBytes_leBytes w.isLt, BitVec.ofNat_toNat, BitVec.setWidth_eq]

theorem decodeCommand_illegal {w : Word} (hw : wfIllegalWord w = true) : decodeCommand w = .cmdIllegal w := by
  rw [decodeCommand, (commandOf_illegal_iff w).mpr (of_decide_eq_true hw)]

/-! ## Host transactions (30_encoding.md R80) -/

/-- A transaction of six bytes is split into its three fields. -/
theorem decodeHost_leBytes {dir : Nat} (hdir : dir < 2) {off : BitVec 12} (hoff : wfOffset off = true) (v : Word) :
    decodeHost (leBytes 6 (dir + 2 * off.toNat + 2 ^ 13 * v.toNat))
      = if dir = 1 then .ok (.write off v) else if v = 0 then .ok (.read off) else .error .reservedBits := by
  have hofflt := off.isLt
  have hvlt := v.isLt
  have hbytes : ofLeBytes (leBytes 6 (dir + 2 * off.toNat + 2 ^ 13 * v.toNat)) = dir + 2 * off.toNat + 2 ^ 13 * v.toNat :=
    ofLeBytes_leBytes (by omega)
  have hoffField : BitVec.ofNat 12 ((dir + 2 * off.toNat + 2 ^ 13 * v.toNat) / 2) = off := by
    apply BitVec.eq_of_toNat_eq
    rw [BitVec.toNat_ofNat]
    omega
  have hdataField : BitVec.ofNat 32 ((dir + 2 * off.toNat + 2 ^ 13 * v.toNat) / 2 ^ 13) = v := by
    apply BitVec.eq_of_toNat_eq
    rw [BitVec.toNat_ofNat]
    omega
  have hreserved : (dir + 2 * off.toNat + 2 ^ 13 * v.toNat) / 2 ^ 45 = 0 := by omega
  have hdirField : (dir + 2 * off.toNat + 2 ^ 13 * v.toNat) % 2 = dir := by omega
  simp only [decodeHost, hbytes, hoffField, hdataField, hreserved, hdirField, hoff, leBytes_length, ne_eq,
    not_true_eq_false, if_false, Bool.true_eq_false]

/-! ## Input beats (30_encoding.md R85) -/

theorem decodeInput_leBytes {last : Nat} (hlast : last < 2) (d : Soft) :
    decodeInput (leBytes 2 (2 ^ 8 * last + d.toNat)) = if last = 1 then .ok (.symLast d) else .ok (.sym d) := by
  have hdlt := d.isLt
  have hbytes : ofLeBytes (leBytes 2 (2 ^ 8 * last + d.toNat)) = 2 ^ 8 * last + d.toNat :=
    ofLeBytes_leBytes (by omega)
  have hdataField : BitVec.ofNat 8 (2 ^ 8 * last + d.toNat) = d := by
    apply BitVec.eq_of_toNat_eq
    rw [BitVec.toNat_ofNat]
    omega
  have hreserved : (2 ^ 8 * last + d.toNat) / 2 ^ 9 = 0 := by omega
  have hlastField : (2 ^ 8 * last + d.toNat) / 2 ^ 8 = last := by omega
  simp only [decodeInput, hbytes, hdataField, hreserved, hlastField, leBytes_length, ne_eq, not_true_eq_false, if_false]

/-! ## Units selected by a `MODE` word (30_encoding.md R91) -/

theorem decodeHypothesis_leBytes {m n h : Nat} (hm : m < 2 ^ 16) (hn : wfIndex n = true) (hh : h < 256) :
    decodeHypothesis (leBytes 2 m ++ leBytes 8 n ++ leBytes 1 h)
      = if m % 2 = 0 then
          if h < 2 then .ok (.hypBpsk n (BitVec.ofNat 1 h)) else .error .hypothesisIndex
        else if h < 8 then .ok (.hypQpsk n (BitVec.ofNat 3 h)) else .error .hypothesisIndex := by
  have hmod : modeField (BitVec.ofNat 8 m) (BitVec.ofNat 8 (m / 256)) 0 1 = m % 2 := by
    simpa using modeField_bytes hm 0 1
  have hlen : (leBytes 8 n ++ leBytes 1 h).length = 9 := by simp
  rw [List.append_assoc, leBytes_two_append]
  simp only [decodeHypothesis, hlen, hmod, ofLeBytes_take_index hn, ofLeBytes_drop_hypothesis n hh, ne_eq,
    not_true_eq_false, if_false]

theorem decodeScore_leBytes {m n h : Nat} (hm : m < 2 ^ 16) (hn : wfIndex n = true) (hh : h < 8) :
    decodeScore (leBytes 2 m ++ leBytes 8 n ++ leBytes 1 h)
      = if m / 2 % 2 = 0 then .ok (.scoreHard n (BitVec.ofNat 3 h)) else .ok (.scoreSoft n (BitVec.ofNat 3 h)) := by
  have hmod : modeField (BitVec.ofNat 8 m) (BitVec.ofNat 8 (m / 256)) 1 1 = m / 2 % 2 := by
    simpa using modeField_bytes hm 1 1
  have hlen : (leBytes 8 n ++ leBytes 1 h).length = 9 := by simp
  rw [List.append_assoc, leBytes_two_append]
  simp only [decodeScore, hlen, hmod, ofLeBytes_take_index hn, ofLeBytes_drop_hypothesis n (show h < 256 by omega),
    if_neg (Nat.not_le.mpr hh), ne_eq, not_true_eq_false, if_false]

theorem decodeDerand_leBytes {m : Nat} (hm : m < 2 ^ 16) {x : List Soft} (hx : wfPayload x = true) :
    decodeDerand (leBytes 2 m ++ x) = if m / 4 % 2 = 0 then .error .notSelected else .ok (.derand x) := by
  have hen : modeField (BitVec.ofNat 8 m) (BitVec.ofNat 8 (m / 256)) 2 1 = m / 4 % 2 := by
    simpa using modeField_bytes hm 2 1
  rw [leBytes_two_append]
  simp only [decodeDerand, hen, hx, if_true]

theorem decodePack_payload {m : Nat} (hm : m < 2 ^ 16) (hoff : m / 32 % 2 = 0) {z : List Soft} (hz : wfPayload z = true) :
    decodePack (leBytes 2 m ++ z) = .ok (.hardPack z) := by
  have hen : modeField (BitVec.ofNat 8 m) (BitVec.ofNat 8 (m / 256)) 5 1 = m / 32 % 2 := by
    simpa using modeField_bytes hm 5 1
  rw [leBytes_two_append]
  simp only [decodePack, hen, hoff, hz, if_true]

theorem decodePack_codedPayload {m : Nat} (hm : m < 2 ^ 16) (hon : m / 32 % 2 = 1) {z : List Soft}
    (hz : wfCodedPayload z = true) : decodePack (leBytes 2 m ++ z) = .ok (.vitDecode z) := by
  have hen : modeField (BitVec.ofNat 8 m) (BitVec.ofNat 8 (m / 256)) 5 1 = m / 32 % 2 := by
    simpa using modeField_bytes hm 5 1
  rw [leBytes_two_append]
  simp only [decodePack, hen, hon, hz, if_true, one_ne_zero, if_false]

theorem decodeRs_leBytes {m : Nat} (hm : m < 2 ^ 16) {frame : List Byte} (hframe : wfRsFrame frame = true) :
    decodeRs (leBytes 2 m ++ frame)
      = if m / 64 % 2 = 0 then .error .notSelected
        else if m / 128 % 2 = 0 then .ok (.rsDecode223 frame) else .ok (.rsDecode239 frame) := by
  have hen : modeField (BitVec.ofNat 8 m) (BitVec.ofNat 8 (m / 256)) 6 1 = m / 64 % 2 := by
    simpa using modeField_bytes hm 6 1
  have hprofile : modeField (BitVec.ofNat 8 m) (BitVec.ofNat 8 (m / 256)) 7 1 = m / 128 % 2 := by
    simpa using modeField_bytes hm 7 1
  rw [leBytes_two_append]
  simp only [decodeRs, hen, hprofile, hframe, Bool.true_eq_false, if_false]

theorem decodeDeframer_correlate {n : Nat} (hn : wfIndex n = true) :
    decodeDeframer (0 :: leBytes 8 n) = .ok (.correlate n) := by
  simp [decodeDeframer, ofLeBytes_leBytes_index hn]

/-! ## The round trip -/

/-- Every well-formed instruction is read back from its own port, by the lemma of that port's format. -/
theorem decode_encode {i : Instr} (hi : wf i = true) : decode (portOf i) (encode i) = .ok i := by
  cases i with
  | nop => exact decodeCmd_leBytes 0
  | start => exact decodeCmd_leBytes 1
  | stop => exact decodeCmd_leBytes 2
  | softReset => exact decodeCmd_leBytes 3
  | resync => exact decodeCmd_leBytes 4
  | clearCounters => exact decodeCmd_leBytes 5
  | clearErrors => exact decodeCmd_leBytes 6
  | cmdIllegal w => exact (decodeCmd_leBytes w).trans (congrArg _ (decodeCommand_illegal hi))
  | read off => simpa [decode, portOf, encode] using decodeHost_leBytes Nat.zero_lt_two hi 0
  | write off v => exact decodeHost_leBytes Nat.one_lt_two hi v
  | sym d => simpa [decode, portOf, encode] using decodeInput_leBytes Nat.zero_lt_two d
  | symLast d => exact decodeInput_leBytes Nat.one_lt_two d
  | pop => rfl
  | hypBpsk n h =>
    have hh := h.isLt
    simpa [decode, portOf, encode, hh] using decodeHypothesis_leBytes (m := 0x0000) (by decide) hi (h := h.toNat) (by omega)
  | hypQpsk n h =>
    have hh := h.isLt
    simpa [decode, portOf, encode, hh] using decodeHypothesis_leBytes (m := 0x0001) (by decide) hi (h := h.toNat) (by omega)
  | scoreHard n h => simpa [decode, portOf, encode] using decodeScore_leBytes (m := 0x0000) (by decide) hi h.isLt
  | scoreSoft n h => simpa [decode, portOf, encode] using decodeScore_leBytes (m := 0x0002) (by decide) hi h.isLt
  | derand x => exact decodeDerand_leBytes (m := 0x0004) (by decide) hi
  | nrzm y => rfl
  | nrzs y => rfl
  | hardPack z => exact decodePack_payload (m := 0x0000) (by decide) (by decide) hi
  | vitDecode z => exact decodePack_codedPayload (m := 0x0020) (by decide) (by decide) hi
  | rsDecode223 frame => exact decodeRs_leBytes (m := 0x0040) (by decide) hi
  | rsDecode239 frame => exact decodeRs_leBytes (m := 0x00C0) (by decide) hi
  | diffReserved => rfl
  | correlate n => exact decodeDeframer_correlate hi
  | acqEval => rfl
  | collect => rfl
  | checkEval => rfl
  | frameEmit => rfl

/-- The reset port carries no row of the opcode table, so what decodes was offered elsewhere. -/
theorem port_ne_reset_of_decode {p : Port} {bytes : List Byte} {i : Instr} (hd : decode p bytes = .ok i) : p ≠ .reset := by
  rintro rfl
  simp [decode] at hd

end Sys2Proof
end

section
/-! SUPPORT. What a step does in each outcome of taking and decoding an offer, and the obligation on the step around `exec`. -/

namespace Sys2Proof.Machine

theorem step_of_takeOffer_none {s : State} (ht : takeOffer s s.offers = none) : step s = .next s := by
  rw [step, ht]

theorem step_of_reset {s : State} {o : Offer} {rest : List Offer} (ht : takeOffer s s.offers = some (o, rest))
    (hp : o.port = .reset) : step s = .next (hardReset (withOffers rest s)) := by
  simp only [step, ht, if_pos hp]

theorem step_of_decode_ok {s : State} {o : Offer} {rest : List Offer} {i : Instr}
    (ht : takeOffer s s.offers = some (o, rest)) (hd : decode o.port o.bytes = .ok i) :
    step s = exec i (withOffers rest s) := by
  simp only [step, ht, if_neg (port_ne_reset_of_decode hd), hd]

/-- A well-formed instruction offered first at a port that accepts it is what the step runs. -/
theorem step_of_offerOf_first {s : State} {i : Instr} {rest : List Offer} (hi : wf i = true)
    (hs : s.offers = offerOf i :: rest) (hready : portReady s (portOf i) = true) :
    step s = exec i (withOffers rest s) := by
  have ht : takeOffer s s.offers = some (offerOf i, rest) := by
    rw [hs]
    exact takeOffer_first hready
  exact step_of_decode_ok ht (decode_encode hi)

/-- Settles O2: one clause per outcome of taking an offer, the second by the round trip of the encoding. -/
theorem stepRunsDecodedOffer : Obligations.StepRunsDecodedOffer :=
  ⟨fun _ _ _ _ ht _ hd => step_of_decode_ok ht hd,
    fun _ _ _ hi hs hready => step_of_offerOf_first hi hs hready,
    fun _ _ _ ht hp => step_of_reset ht hp,
    fun s hheld => step_of_takeOffer_none ((takeOffer_eq_none_iff s s.offers).mpr hheld)⟩

end Sys2Proof.Machine
end

section
/-! SUPPORT. What a configuration that `START` accepts guarantees, and the length of the frame the chain makes of a payload. -/

namespace Sys2Proof.Machine

/-! ## Legal configurations (47_host_commands.md R272) -/

section Legal

variable {c : CfgRegs}

theorem markerLen_pos_of_legal (hc : startFail c = 0) : 0 < markerLen c := by
  obtain ⟨hmarker, -⟩ := (startFail_eq_zero_iff c).mp hc
  have := (failsMarkerLen_iff c).not.mp (by simp [hmarker])
  omega

theorem markerLen_lt_framePeriod_of_legal (hc : startFail c = 0) : markerLen c < framePeriod c := by
  obtain ⟨-, hframe, -⟩ := (startFail_eq_zero_iff c).mp hc
  have := (failsFrameLen_iff c).not.mp (by simp [hframe])
  omega

theorem codeLegal_of_legal (hc : startFail c = 0) (hv : vitEn c = true) : codeLegal (vitCode c) = true := by
  obtain ⟨-, -, -, -, hcode, -⟩ := (startFail_eq_zero_iff c).mp hc
  simpa [failsVitCode, hv] using hcode

theorem rsGeometryLegal_of_legal (hc : startFail c = 0) (hr : rsEn c = true) : rsGeometryLegal c (bytesIn c) = true := by
  obtain ⟨-, -, -, -, -, hgeometry, -⟩ := (startFail_eq_zero_iff c).mp hc
  simpa [failsRsGeometry, hr] using hgeometry

theorem lockThresholds_pos_of_legal (hc : startFail c = 0) : 0 < goodToLock c ∧ 0 < lossThresh c := by
  obtain ⟨-, -, -, -, -, -, hlock⟩ := (startFail_eq_zero_iff c).mp hc
  have := of_decide_eq_false hlock
  omega

/-- The payload of a legal configuration is whole bytes and not empty, so it gives at least one byte. -/
theorem bytesIn_pos_of_legal (hc : startFail c = 0) : 0 < bytesIn c := by
  obtain ⟨-, -, halign, -⟩ := (startFail_eq_zero_iff c).mp hc
  have hpayload : 0 < payloadLen c := Nat.sub_pos_of_lt (markerLen_lt_framePeriod_of_legal hc)
  have hwhole := (failsAlignment_iff c).not.mp (by simp [halign])
  unfold bytesIn
  split <;> simp_all <;> omega

theorem rsDataLen_pos (profile : Bool) : 0 < rsDataLen profile := by cases profile <;> decide

theorem bytesOut_pos_of_legal (hc : startFail c = 0) : 0 < bytesOut c := by
  unfold bytesOut
  split
  · next hr =>
    have hdepth : 0 < rsDepth c := ((rsGeometryLegal_iff c _).mp (rsGeometryLegal_of_legal hc hr)).1
    split
    · exact Nat.mul_pos (by decide) hdepth
    · exact Nat.mul_pos (rsDataLen_pos _) hdepth
  · exact bytesIn_pos_of_legal hc

end Legal

/-- A `START` that meets `DIFF_MODE = 3` fails one of its checks. -/
theorem startFail_withDiffReserved (c : CfgRegs) : startFail (withDiffReserved c) ≠ 0 := by
  intro hc
  obtain ⟨-, -, -, hdiff, -⟩ := (startFail_eq_zero_iff _).mp hc
  have hfield : diffMode (withDiffReserved c) = 3 := by
    have : ((c.mode ||| 0x18).extractLsb' 3 2) = 3#2 := by
      ext i hi
      interval_cases i <;> simp
    simpa [diffMode, field, withDiffReserved, Nat.shiftRight_eq_div_pow] using congrArg BitVec.toNat this
  exact of_decide_eq_false hdiff hfield

/-! ## Lengths along the frame chain (46_frame_chain.md R250, R253) -/

@[simp] theorem framePayload_length (c : CfgRegs) (v : List Soft) (h : BitVec 3) (p : Nat) :
    (framePayload c v h p).length = payloadLen c := by
  simp [framePayload]

@[simp] theorem diffFrame_length (mode : Nat) (last : Bool) (marker payload : List Soft) :
    (diffFrame mode last marker payload).1.length = payload.length := by
  unfold diffFrame
  split <;> simp

@[simp] theorem softStages_length (c : CfgRegs) (last : Bool) (marker payload : List Soft) :
    (softStages c last marker payload).1.length = payload.length := by
  unfold softStages derandomize
  split <;> simp

theorem byteStage_bytes_length {c : CfgRegs} {pm : List Nat} {z : List Soft} (hz : z.length = payloadLen c) :
    (byteStage c pm z).bytes.length = bytesIn c := by
  unfold byteStage bytesIn
  split
  · rw [vitDecode_bytes_length, hz]
  · rw [hardPack_length, hz]

theorem rsStage_bytes_length {c : CfgRegs} {bytes : List Byte} (hb : bytes.length = bytesIn c) :
    (rsStage c bytes).bytes.length = bytesOut c := by
  unfold rsStage bytesOut
  split
  · rw [(rsDecodeFrame_lengths c _ bytes).1]
    split <;> rfl
  · exact hb

/-- `FRAME_EMIT` queues one frame, of exactly `B_out` bytes. -/
theorem emitFrame_queue_bytesOut (p : Nat) (h : BitVec 3) (flag : Bool) (lock : Lock) (s : State) :
    ∃ f, (emitFrame p h flag lock s).queue = s.queue ++ [f] ∧ f.bytes.length = bytesOut s.cfg :=
  ⟨_, rfl, rsStage_bytes_length (byteStage_bytes_length (by simp))⟩

/-! ## The banks of fixed length (10_state.md R40, R41, R50) -/

theorem stateCount_le_pmStates {code : VitCode} (hcode : codeLegal code = true) : stateCount code ≤ Config.pmStates := by
  obtain ⟨-, hk, -⟩ := (codeLegal_iff code).mp hcode
  exact (Nat.pow_le_pow_right Nat.two_pos (show code.k - 1 ≤ 8 by omega))

/-- The metrics keep the bank's bound through a frame: each step leaves one per state of the code. -/
theorem acsRun_pm_length_le {code : VitCode} (hcode : codeLegal code = true) {pm : List Nat}
    (hpm : pm.length ≤ Config.pmStates) (ys : List (Soft × Soft)) (ds : List (List Bool)) :
    (acsRun code pm ys ds).1.length ≤ Config.pmStates := by
  induction ys generalizing pm ds with
  | nil => exact hpm
  | cons y ys ih => exact ih ((acs_length code pm y).1.trans_le (stateCount_le_pmStates hcode)) _

theorem normalise_length {pm : List Nat} (hpm : pm.length ≤ Config.pmStates) :
    (normalise pm).length = Config.pmStates := by
  simp only [normalise, List.length_append, List.length_map, List.length_replicate]
  omega

theorem vitDecode_pm_length {code : VitCode} (hcode : codeLegal code = true) {pm : List Nat}
    (hpm : pm.length = Config.pmStates) (z : List Soft) : (vitDecode code pm z).pm.length = Config.pmStates :=
  normalise_length (acsRun_pm_length_le hcode hpm.le _ _)

theorem byteStage_pm_length {c : CfgRegs} (hc : startFail c = 0) {pm : List Nat} (hpm : pm.length = Config.pmStates)
    (z : List Soft) : (byteStage c pm z).pm.length = Config.pmStates := by
  unfold byteStage
  split
  · next hv => exact vitDecode_pm_length (codeLegal_of_legal hc hv) hpm z
  · exact hpm

@[simp] theorem corrLastOf_length (count : List Nat) : (corrLastOf count).length = 8 := by simp [corrLastOf]

theorem emitFrame_shapeInv {s : State} (hc : startFail s.cfg = 0) (hs : ShapeInv s) (p : Nat) (h : BitVec 3) (flag : Bool)
    (lock : Lock) : ShapeInv (emitFrame p h flag lock s) := by
  obtain ⟨hpm, htotal, -⟩ := hs
  refine ⟨byteStage_pm_length hc hpm _, ?_, ?_⟩
  · simp [emitFrame, updateCounters, htotal]
  · simp [emitFrame, updateCounters]

end Sys2Proof.Machine
end

section
/-! SUPPORT. What the deframer writes as one bit becomes available, and its invariant from bit to bit (42_deframer.md R152,
R169). -/

namespace Sys2Proof.Machine

/-! ## What the deframer writes -/

/-- What evaluating a marker may write: the deframer's own fields, `LAST_SCORE` and `SYNC_ERRORS`, and the metrics only by
clearing them (R153, R157, R160 to R162). -/
def MarkerWrites (s t : State) : Prop :=
  ∃ d pm score errs, (pm = s.pm ∨ pm = pmReset)
    ∧ t = { s with
        deframer := d
        pm := pm
        counters := { s.counters with lastScore := score, syncErrors := errs } }

/-- What a bit step may write: besides that what `FRAME_EMIT` writes (46_frame_chain.md R250). -/
def BitWrites (s t : State) : Prop :=
  ∃ d k last pm q, t = { s with deframer := d, counters := k, lastBit := last, pm := pm, queue := q }

theorem MarkerWrites.refl (s : State) : MarkerWrites s s := ⟨_, _, _, _, .inl rfl, rfl⟩

theorem MarkerWrites.trans {s t u : State} (hst : MarkerWrites s t) (htu : MarkerWrites t u) : MarkerWrites s u := by
  obtain ⟨_, _, _, _, hpm, rfl⟩ := hst
  obtain ⟨_, _, _, _, hpm', rfl⟩ := htu
  exact ⟨_, _, _, _, hpm'.elim (fun h => h ▸ hpm) .inr, rfl⟩

theorem MarkerWrites.queue_eq {s t : State} (h : MarkerWrites s t) : t.queue = s.queue := by
  obtain ⟨_, _, _, _, -, rfl⟩ := h; rfl

theorem MarkerWrites.shapeInv {s t : State} (h : MarkerWrites s t) (hs : ShapeInv s) : ShapeInv t := by
  obtain ⟨_, _, _, _, hpm, rfl⟩ := h
  obtain ⟨hlen, htotal, hlast⟩ := hs
  refine ⟨?_, htotal, hlast⟩
  rcases hpm with rfl | rfl
  · exact hlen
  · exact List.length_replicate

theorem MarkerWrites.bitWrites {s t : State} (h : MarkerWrites s t) : BitWrites s t := by
  obtain ⟨_, _, _, _, -, rfl⟩ := h
  exact ⟨_, _, _, _, _, rfl⟩

theorem BitWrites.refl (s : State) : BitWrites s s := ⟨_, _, _, _, _, rfl⟩

theorem BitWrites.cfg_eq {s t : State} (h : BitWrites s t) : t.cfg = s.cfg := by
  obtain ⟨_, _, _, _, _, rfl⟩ := h; rfl

theorem BitWrites.errors_eq {s t : State} (h : BitWrites s t) : t.errors = s.errors := by
  obtain ⟨_, _, _, _, _, rfl⟩ := h; rfl

theorem BitWrites.run_eq {s t : State} (h : BitWrites s t) : t.run = s.run := by
  obtain ⟨_, _, _, _, _, rfl⟩ := h; rfl

theorem BitWrites.nv_eq {s t : State} (h : BitWrites s t) : t.nv = s.nv := by
  obtain ⟨_, _, _, _, _, rfl⟩ := h; rfl

theorem BitWrites.avail_eq {s t : State} (h : BitWrites s t) : t.avail = s.avail := by
  obtain ⟨_, _, _, _, _, rfl⟩ := h; rfl

theorem BitWrites.soft_eq {s t : State} (h : BitWrites s t) : t.soft = s.soft := by
  obtain ⟨_, _, _, _, _, rfl⟩ := h; rfl

theorem BitWrites.txPos_eq {s t : State} (h : BitWrites s t) : t.txPos = s.txPos := by
  obtain ⟨_, _, _, _, _, rfl⟩ := h; rfl

theorem markerWrites_acqEval (s : State) : MarkerWrites s (acqEval s) := by
  rw [acqEval_frame]
  exact ⟨_, _, _, _, .inl rfl, rfl⟩

theorem markerWrites_enterNoSync (s : State) : MarkerWrites s (enterNoSync s) :=
  .trans (t := clearMetrics (searchFrom s.deframer.pos s)) ⟨_, _, _, _, .inr rfl, rfl⟩ (markerWrites_acqEval _)

theorem markerWrites_checkSyncing (ok : Bool) (s : State) : MarkerWrites s (checkSyncing ok s) := by
  rcases checkSyncing_cases ok s with ⟨-, -, h⟩ | ⟨-, -, h⟩ | ⟨-, h⟩ <;> rw [h]
  · exact ⟨_, _, _, _, .inl rfl, rfl⟩
  · exact ⟨_, _, _, _, .inl rfl, rfl⟩
  · exact .trans ⟨_, _, _, _, .inl rfl, rfl⟩ (markerWrites_enterNoSync (countSyncError s))

theorem markerWrites_checkSynced (ok : Bool) (s : State) : MarkerWrites s (checkSynced ok s) := by
  rcases checkSynced_cases ok s with ⟨-, h⟩ | ⟨-, -, h⟩ | ⟨-, -, h⟩ <;> rw [h]
  · exact ⟨_, _, _, _, .inl rfl, rfl⟩
  · exact ⟨_, _, _, _, .inl rfl, rfl⟩
  · exact .trans ⟨_, _, _, _, .inl rfl, rfl⟩ (markerWrites_enterNoSync _)

theorem markerWrites_checkEval (s : State) : MarkerWrites s (checkEval s) := by
  have hscore : MarkerWrites s (setLastScore (score s.cfg s.soft s.deframer.hyp s.deframer.pos) s) :=
    ⟨_, _, _, _, .inl rfl, rfl⟩
  obtain ⟨ok, -, ⟨-, h⟩ | ⟨-, h⟩⟩ := checkEval_cases s <;> rw [h]
  · exact hscore.trans (markerWrites_checkSyncing ok _)
  · exact hscore.trans (markerWrites_checkSynced ok _)

theorem bitWrites_collectEnd (s : State) : BitWrites s (collectEnd s) := ⟨_, _, _, _, _, rfl⟩

/-- A bit step evaluates a marker at most, or ends a collection. -/
theorem deframerBit_writes (n : Nat) (s : State) :
    MarkerWrites s (deframerBit n s) ∨ (s.deframer.phase = .collect ∧ deframerBit n s = collectEnd s) := by
  rcases deframerBit_cases n s with ⟨-, -, h⟩ | ⟨hphase, -, h⟩ | ⟨-, -, h⟩ | ⟨-, h⟩ <;> rw [h]
  · exact .inl (markerWrites_acqEval s)
  · exact .inr ⟨hphase, rfl⟩
  · exact .inl (markerWrites_checkEval s)
  · exact .inl (.refl s)

theorem bitWrites_availBit (s : State) : BitWrites { s with avail := s.avail + 1 } (availBit s) := by
  rcases deframerBit_writes s.avail { s with avail := s.avail + 1 } with h | ⟨-, h⟩
  · exact h.bitWrites
  · rw [availBit, h]
    exact bitWrites_collectEnd _

/-- Making bits available writes `AVAIL` and what the bit steps may write. -/
theorem bitWrites_availBits (count : Nat) (s : State) :
    BitWrites { s with avail := s.avail + count } (availBits count s) := by
  induction count generalizing s with
  | zero => exact .refl s
  | succ c ih =>
    have hrest := ih (availBit s)
    obtain ⟨_, _, _, _, _, hfirst⟩ := bitWrites_availBit s
    rw [hfirst] at hrest
    obtain ⟨_, _, _, _, _, hall⟩ := hrest
    rw [availBits_succ, hfirst, hall, Nat.add_assoc, Nat.add_comm 1 c]
    exact ⟨_, _, _, _, _, rfl⟩

/-! ## The invariant of lock, phase and counts -/

/-- The clauses of `DeframerInv` that speak of no position (R164, R169). -/
structure LockInv (c : CfgRegs) (d : Deframer) : Prop where
  phase_iff : d.phase = .search ↔ d.lock = .noSync
  flag_synced : d.flag = true → d.lock = .synced
  good_syncing : d.lock = .syncing → d.good < goodToLock c
  good_le : d.good ≤ goodToLock c
  miss_zero : d.lock ≠ .synced → d.miss = 0
  miss_lt : d.lock = .synced → d.miss < lossThresh c

/-- The number of available bits at which the deframer acts next: at the end of the frame in `COLLECT`, else at the end of the
window at `POS` (R152). -/
def dueAt (c : CfgRegs) (d : Deframer) : Nat := d.pos + (if d.phase = .collect then framePeriod c else markerLen c)

theorem dueAt_collect {c : CfgRegs} {d : Deframer} (h : d.phase = .collect) : dueAt c d = d.pos + framePeriod c := by
  rw [dueAt, if_pos h]

theorem dueAt_window {c : CfgRegs} {d : Deframer} (h : d.phase ≠ .collect) : dueAt c d = d.pos + markerLen c := by
  rw [dueAt, if_neg h]

/-- `DeframerInv`, its two position clauses in one: outside `IDLE` the next action still lies ahead. -/
theorem deframerInv_iff (s : State) :
    DeframerInv s ↔ LockInv s.cfg s.deframer ∧ (s.run ≠ .idle → s.avail < dueAt s.cfg s.deframer) := by
  constructor
  · intro h
    refine ⟨⟨h.phase_iff, h.flag_synced, h.good_syncing, h.good_le, h.miss_zero, h.miss_lt⟩, fun hrun => ?_⟩
    by_cases hphase : s.deframer.phase = .collect
    · exact dueAt_collect hphase ▸ h.frame_ahead hrun hphase
    · exact dueAt_window hphase ▸ h.window_ahead hrun hphase
  · rintro ⟨h, hdue⟩
    exact ⟨h.phase_iff, h.flag_synced, h.good_syncing, h.good_le, h.miss_zero, h.miss_lt,
      fun hrun hphase => dueAt_window hphase ▸ hdue hrun, fun hrun hphase => dueAt_collect hphase ▸ hdue hrun⟩

/-- In `NO_SYNC` the counts stand at 0, which every configuration allows. -/
theorem lockInv_searching {c : CfgRegs} {d : Deframer} (hphase : d.phase = .search) (hlock : d.lock = .noSync)
    (hgood : d.good = 0) (hmiss : d.miss = 0) (hflag : d.flag = false) : LockInv c d where
  phase_iff := by simp [hphase, hlock]
  flag_synced := by simp [hflag]
  good_syncing := by simp [hlock]
  good_le := by simp [hgood]
  miss_zero := fun _ => hmiss
  miss_lt := by simp [hlock]

theorem lockInv_deframerReset (c : CfgRegs) : LockInv c deframerReset := lockInv_searching rfl rfl rfl rfl rfl

/-- The deframer's invariant in the middle of a run, once its action at the newest bit is done. -/
def DeframerReady (s : State) : Prop := LockInv s.cfg s.deframer ∧ s.avail < dueAt s.cfg s.deframer

section Ready

variable {s : State} (hc : startFail s.cfg = 0)

include hc

/-- An acquisition attempt at the end of the window either collects at `POS` or moves the window on by a bit. -/
theorem deframerReady_acqEval (hlock : LockInv s.cfg s.deframer) (hphase : s.deframer.phase = .search)
    (hend : s.avail = s.deframer.pos + markerLen s.cfg) : DeframerReady (acqEval s) := by
  have hlt := markerLen_lt_framePeriod_of_legal hc
  have hgood := (lockThresholds_pos_of_legal hc).1
  rcases acqEval_cases s with ⟨-, h⟩ | ⟨-, h⟩ <;> rw [h]
  · constructor
    · constructor <;> simp [hgood]
    · simp only [dueAt_collect, setLastScore_avail, setLastScore_cfg]
      omega
  · refine ⟨⟨hlock.phase_iff, hlock.flag_synced, hlock.good_syncing, hlock.good_le, hlock.miss_zero, hlock.miss_lt⟩, ?_⟩
    rw [dueAt_window (by simp [hphase])]
    simp only [setLastScore_avail, setLastScore_cfg]
    omega

theorem deframerReady_enterNoSync (hend : s.avail = s.deframer.pos + markerLen s.cfg) :
    DeframerReady (enterNoSync s) :=
  deframerReady_acqEval (s := clearMetrics (searchFrom s.deframer.pos s)) hc (lockInv_searching rfl rfl rfl rfl rfl)
    rfl hend

theorem deframerReady_checkSyncing (hlock : LockInv s.cfg s.deframer) (hsyncing : s.deframer.lock = .syncing)
    (hend : s.avail = s.deframer.pos + markerLen s.cfg) (ok : Bool) : DeframerReady (checkSyncing ok s) := by
  have hlt := markerLen_lt_framePeriod_of_legal hc
  have hloss := (lockThresholds_pos_of_legal hc).2
  have hgood := hlock.good_syncing hsyncing
  have hmiss := hlock.miss_zero (by simp [hsyncing])
  rcases checkSyncing_cases ok s with ⟨-, -, h⟩ | ⟨-, hmore, h⟩ | ⟨-, h⟩ <;> rw [h]
  · exact ⟨by constructor <;> simp [hloss, Nat.succ_le_of_lt hgood], by simp only [dueAt_collect]; omega⟩
  · exact ⟨by constructor <;> simp [hsyncing, hmiss, hmore, hmore.le], by simp only [dueAt_collect]; omega⟩
  · exact deframerReady_enterNoSync (s := countSyncError s) hc hend

theorem deframerReady_checkSynced (hlock : LockInv s.cfg s.deframer) (hsynced : s.deframer.lock = .synced)
    (hend : s.avail = s.deframer.pos + markerLen s.cfg) (ok : Bool) : DeframerReady (checkSynced ok s) := by
  have hlt := markerLen_lt_framePeriod_of_legal hc
  have hloss := (lockThresholds_pos_of_legal hc).2
  have hgood := hlock.good_le
  rcases checkSynced_cases ok s with ⟨-, h⟩ | ⟨-, hmore, h⟩ | ⟨-, -, h⟩ <;> rw [h]
  · exact ⟨by constructor <;> simp [hsynced, hloss, hgood], by simp only [dueAt_collect]; omega⟩
  · refine ⟨by constructor <;> simp [hsynced, hmore, hgood], ?_⟩
    simp only [dueAt_collect, countSyncError_avail, countSyncError_cfg]
    omega
  · exact deframerReady_enterNoSync
      (s := { countSyncError s with deframer := { s.deframer with miss := s.deframer.miss + 1 } }) hc hend

theorem deframerReady_checkEval (hlock : LockInv s.cfg s.deframer) (hphase : s.deframer.phase = .check)
    (hend : s.avail = s.deframer.pos + markerLen s.cfg) : DeframerReady (checkEval s) := by
  have hfound : s.deframer.lock ≠ .noSync := fun h => by simp [hlock.phase_iff.mpr h] at hphase
  obtain ⟨ok, -, ⟨hsyncing, h⟩ | ⟨hother, h⟩⟩ := checkEval_cases s <;> rw [h]
  · exact deframerReady_checkSyncing (s := setLastScore _ s) hc hlock hsyncing hend ok
  · have hsynced : s.deframer.lock = .synced := by cases hl : s.deframer.lock <;> simp_all
    exact deframerReady_checkSynced (s := setLastScore _ s) hc hlock hsynced hend ok

/-- After a collection the next marker is expected one period on, with at least one bit of it still to come. -/
theorem deframerReady_collectEnd (hlock : LockInv s.cfg s.deframer) (hphase : s.deframer.phase = .collect)
    (hend : s.avail = s.deframer.pos + framePeriod s.cfg) : DeframerReady (collectEnd s) := by
  have hpos := markerLen_pos_of_legal hc
  have hfound : s.deframer.lock ≠ .noSync := fun h => by simp [hlock.phase_iff.mpr h] at hphase
  rw [collectEnd_eq]
  refine ⟨⟨by simpa using hfound, hlock.flag_synced, hlock.good_syncing, hlock.good_le, hlock.miss_zero,
    hlock.miss_lt⟩, ?_⟩
  rw [dueAt_window (by simp)]
  simp only [emitFrame_avail, emitFrame_cfg]
  omega

/-- One more bit: the deframer acts on it exactly when it is due, and is ready for the next. -/
theorem deframerReady_availBit (h : DeframerReady s) : DeframerReady (availBit s) := by
  obtain ⟨hlock, hdue⟩ := h
  rcases deframerBit_cases s.avail { s with avail := s.avail + 1 } with
    ⟨hphase, hend, h⟩ | ⟨hphase, hend, h⟩ | ⟨hphase, hend, h⟩ | ⟨hend, h⟩ <;> rw [availBit, h]
  · exact deframerReady_acqEval hc hlock hphase hend
  · exact deframerReady_collectEnd hc hlock hphase hend
  · exact deframerReady_checkEval hc hlock hphase hend
  · exact ⟨hlock, Nat.lt_of_le_of_ne hdue hend⟩

end Ready

end Sys2Proof.Machine
end

section
/-! SUPPORT. The machine's invariant through an input beat: what every bit of it keeps, and room for the frame it may complete. -/

namespace Sys2Proof.Machine

/-! ## The output queue (40_streams.md R120; 46_frame_chain.md R253) -/

/-- All queued frames have `B_out` bytes, so `TXPOS` is bounded by `B_out` whichever frame is at the head. -/
theorem queueInv_iff (s : State) :
    QueueInv s ↔
      s.queue.length ≤ Config.outCap ∧ (s.run = .stopped → s.queue = [])
        ∧ (∀ f ∈ s.queue, f.bytes.length = bytesOut s.cfg)
        ∧ (s.queue = [] → s.txPos = 0) ∧ (s.queue ≠ [] → s.txPos < bytesOut s.cfg) := by
  cases hq : s.queue with
  | nil =>
    constructor
    · intro h
      have htx := h.tx_lt
      rw [hq] at htx
      simpa using htx
    · rintro ⟨-, -, -, htx, -⟩
      constructor <;> simp [hq, htx]
  | cons f rest =>
    constructor
    · intro h
      have htx := h.tx_lt
      rw [hq] at htx
      refine ⟨hq ▸ h.le_cap, hq ▸ h.stopped_empty, hq ▸ h.frame_len, by simp, fun _ => ?_⟩
      exact h.frame_len f (by simp [hq]) ▸ htx
    · rintro ⟨hcap, hstopped, hlen, -, htx⟩
      refine ⟨hq ▸ hcap, hq ▸ hstopped, hq ▸ hlen, ?_⟩
      rw [hq]
      exact (htx (by simp)).trans_eq (hlen f (by simp)).symm

/-- With nothing queued and nothing delivered the queue's invariant holds. -/
theorem queueInv_of_empty {s : State} (hq : s.queue = []) (htx : s.txPos = 0) : QueueInv s :=
  (queueInv_iff s).mpr (by simp [hq, htx])

/-! ## Between the bits of a beat -/

/-- What holds between two bits of an input beat: `MachineInv` in `RUNNING`, but for availability and the queue's capacity, which
the beat as a whole restores. -/
structure BeatInv (s : State) : Prop where
  running : s.run = .running
  legal : startFail s.cfg = 0
  deframer : DeframerReady s
  frame_len : ∀ f ∈ s.queue, f.bytes.length = bytesOut s.cfg
  tx_empty : s.queue = [] → s.txPos = 0
  tx_lt : s.txPos < bytesOut s.cfg
  shape : ShapeInv s

theorem MachineInv.beatInv {s : State} (h : MachineInv s) (hrun : s.run = .running) : BeatInv s := by
  have hne : s.run ≠ .idle := by simp [hrun]
  have hc := h.latched hne
  obtain ⟨-, -, hlen, hempty, htx⟩ := (queueInv_iff s).mp h.queue
  obtain ⟨hlock, hdue⟩ := (deframerInv_iff s).mp h.deframer
  refine ⟨hrun, hc, ⟨hlock, hdue hne⟩, hlen, hempty, ?_, h.shape⟩
  by_cases hq : s.queue = []
  · exact hempty hq ▸ bytesOut_pos_of_legal hc
  · exact htx hq

theorem BeatInv.machineInv {s : State} (h : BeatInv s) (hreserved : ReservedZero s.cfg) (hstream : StreamInv s)
    (hcap : s.queue.length ≤ Config.outCap) : MachineInv s where
  reserved := hreserved
  latched := fun _ => h.legal
  idleClean := fun hidle => by simp [h.running] at hidle
  stream := hstream
  deframer := (deframerInv_iff s).mpr ⟨h.deframer.1, fun _ => h.deframer.2⟩
  queue := (queueInv_iff s).mpr
    ⟨hcap, fun hstopped => by simp [h.running] at hstopped, h.frame_len, h.tx_empty, fun _ => h.tx_lt⟩
  shape := h.shape

/-- A bit leaves the queue alone, or ends a collection and queues one frame of `B_out` bytes. -/
theorem availBit_queue (s : State) :
    (availBit s).queue = s.queue
      ∨ (s.deframer.phase = .collect ∧ (availBit s).deframer.phase = .check
          ∧ ∃ f, (availBit s).queue = s.queue ++ [f] ∧ f.bytes.length = bytesOut s.cfg) := by
  rcases deframerBit_writes s.avail { s with avail := s.avail + 1 } with h | ⟨hphase, h⟩
  · exact .inl h.queue_eq
  · rw [availBit, h]
    exact .inr ⟨hphase, rfl, emitFrame_queue_bytesOut _ _ _ _ { s with avail := s.avail + 1 }⟩

theorem availBit_shapeInv {s : State} (hc : startFail s.cfg = 0) (h : ShapeInv s) : ShapeInv (availBit s) := by
  rcases deframerBit_writes s.avail { s with avail := s.avail + 1 } with hw | ⟨-, hw⟩
  · exact hw.shapeInv h
  · rw [availBit, hw]
    exact emitFrame_shapeInv (s := { s with avail := s.avail + 1 }) hc h _ _ _ _

theorem BeatInv.availBit {s : State} (h : BeatInv s) : BeatInv (availBit s) := by
  have hw := bitWrites_availBit s
  have hcfg : (Machine.availBit s).cfg = s.cfg := hw.cfg_eq
  have htx : (Machine.availBit s).txPos = s.txPos := hw.txPos_eq
  have hqueue : (∀ f ∈ (Machine.availBit s).queue, f.bytes.length = bytesOut s.cfg)
      ∧ ((Machine.availBit s).queue = [] → s.txPos = 0) := by
    rcases availBit_queue s with hq | ⟨-, -, f, hq, hf⟩ <;> rw [hq]
    · exact ⟨h.frame_len, h.tx_empty⟩
    · exact ⟨List.forall_mem_append.mpr ⟨h.frame_len, by simpa using hf⟩, by simp⟩
  exact
    { running := hw.run_eq.trans h.running
      legal := hcfg ▸ h.legal
      deframer := deframerReady_availBit h.legal h.deframer
      frame_len := hcfg ▸ hqueue.1
      tx_empty := htx ▸ hqueue.2
      tx_lt := by rw [hcfg, htx]; exact h.tx_lt
      shape := availBit_shapeInv h.legal h.shape }

theorem BeatInv.availBits {s : State} (h : BeatInv s) (count : Nat) : BeatInv (availBits count s) :=
  availBits_induction (fun _ hs => hs.availBit) count h

/-- A beat that starts with room in the queue does not overfill it: it makes two bits available at most, and the bit after the
end of a frame is part of the next marker. -/
theorem availBits_queue_length_le {s : State} {count : Nat} (hcount : count ≤ 2)
    (hroom : s.queue.length < Config.outCap) : (availBits count s).queue.length ≤ Config.outCap := by
  have hfirst : (availBit s).queue.length < Config.outCap
      ∨ ((availBit s).deframer.phase = .check ∧ (availBit s).queue.length ≤ Config.outCap) := by
    rcases availBit_queue s with hq | ⟨-, hcheck, f, hq, -⟩
    · exact .inl (hq ▸ hroom)
    · exact .inr ⟨hcheck, by simpa [hq] using hroom⟩
  match count, hcount with
  | 0, _ => exact hroom.le
  | 1, _ => exact hfirst.elim Nat.le_of_lt And.right
  | 2, _ =>
    change (availBit (availBit s)).queue.length ≤ Config.outCap
    rcases availBit_queue (availBit s) with hq | ⟨hcollect, -, f, hq, -⟩ <;> rw [hq]
    · exact hfirst.elim Nat.le_of_lt And.right
    · rcases hfirst with hlt | ⟨hcheck, -⟩
      · simpa using hlt
      · simp [hcheck] at hcollect

/-! ## One input beat -/

theorem newAvail_mono (c : CfgRegs) (nv : Nat) : newAvail c nv ≤ newAvail c (nv + 1) := by
  unfold newAvail
  split <;> omega

/-- The state in which the bits of an accepted value become available one by one (40_streams.md R112). -/
def withSoft (v : Soft) (s : State) : State :=
  { s with
    soft := s.soft ++ [v]
    nv := s.nv + 1
    counters := { s.counters with symbolsIn := s.counters.symbolsIn + 1 } }

theorem acceptSoft_eq (v : Soft) (s : State) :
    acceptSoft v s = availBits (newAvail s.cfg (s.nv + 1) - s.avail) (withSoft v s) := rfl

theorem acceptSoft_machineInv {s : State} (h : MachineInv s) (hrun : s.run = .running)
    (hroom : s.queue.length < Config.outCap) (v : Soft) : MachineInv (acceptSoft v s) := by
  obtain ⟨hsoft, havail⟩ := h.stream
  have hmono := newAvail_mono s.cfg s.nv
  have hbeat : BeatInv (withSoft v s) := by
    obtain ⟨hrunning, hlegal, hready, hlen, hempty, htx, hshape⟩ := h.beatInv hrun
    exact ⟨hrunning, hlegal, hready, hlen, hempty, htx, hshape⟩
  have hw := bitWrites_availBits (newAvail s.cfg (s.nv + 1) - s.avail) (withSoft v s)
  rw [acceptSoft_eq]
  refine (hbeat.availBits _).machineInv ?_ ⟨?_, ?_⟩ ?_
  · rw [hw.cfg_eq]
    exact h.reserved
  · rw [hw.soft_eq, hw.nv_eq]
    simp [withSoft, hsoft]
  · rw [hw.avail_eq, hw.cfg_eq, hw.nv_eq]
    simp only [withSoft]
    omega
  · exact availBits_queue_length_le (havail ▸ newAvail_succ_sub_le s.cfg s.nv) hroom

/-- The end of a stream only leaves `RUNNING`, which no clause of the invariant asks for. -/
theorem endOfStream_machineInv {s : State} (h : MachineInv s) (hrun : s.run = .running) :
    MachineInv (endOfStream s) := by
  have hbeat := h.beatInv hrun
  obtain ⟨hcap, -, hlen, hempty, htx⟩ := (queueInv_iff s).mp h.queue
  exact
    { reserved := h.reserved
      latched := fun _ => hbeat.legal
      idleClean := fun hidle => by simp [endOfStream] at hidle
      stream := h.stream
      deframer := (deframerInv_iff _).mpr ⟨hbeat.deframer.1, fun _ => hbeat.deframer.2⟩
      queue := (queueInv_iff _).mpr ⟨hcap, by simp [endOfStream], hlen, hempty, htx⟩
      shape := h.shape }

theorem acceptSoft_run (v : Soft) (s : State) : (acceptSoft v s).run = s.run := by
  rw [acceptSoft_eq]
  exact (bitWrites_availBits _ _).run_eq

theorem takeBeat_machineInv {s : State} (h : MachineInv s) (last : Bool) (v : Soft) : MachineInv (takeBeat last v s) := by
  rcases takeBeat_cases last v s with ⟨-, heq⟩ | ⟨-, heq⟩ | ⟨hrun, hroom, heq⟩ <;> rw [heq]
  · exact h
  · exact h
  · have haccepted := acceptSoft_machineInv h hrun hroom v
    split
    · exact endOfStream_machineInv haccepted ((acceptSoft_run v s).trans hrun)
    · exact haccepted

/-! ## One output beat -/

/-- A delivered beat leaves the rest of the head frame, or the frames behind it. -/
theorem deliverBeat_machineInv {s : State} (h : MachineInv s) {b : OutBeat} (hb : outBeat s = some b) :
    MachineInv (deliverBeat b s) := by
  obtain ⟨hcap, hstopped, hlen, -, htx⟩ := (queueInv_iff s).mp h.queue
  obtain ⟨f, rest, hq⟩ : ∃ f rest, s.queue = f :: rest := by
    cases hq : s.queue with
    | nil => simp [outBeat, hq] at hb
    | cons f rest => exact ⟨f, rest, rfl⟩
  have hf : f.bytes.length = bytesOut s.cfg := hlen f (by simp [hq])
  have hlt : s.txPos < bytesOut s.cfg := htx (by simp [hq])
  have heof : b.eof = decide (s.txPos + 1 = bytesOut s.cfg) := by
    rw [outBeat, hq] at hb
    rw [← Option.some.inj hb, ← hf]
    rfl
  have hidle : s.run ≠ .idle := fun hr => by simp [(h.idleClean hr).2.2] at hq
  have hdeframer := (deframerInv_iff s).mp h.deframer
  rcases deliverBeat_cases b s with ⟨-, heq⟩ | ⟨hmore, heq⟩ <;> rw [heq]
  · refine ⟨h.reserved, h.latched, fun hr => absurd hr hidle, h.stream, (deframerInv_iff _).mpr hdeframer,
      (queueInv_iff _).mpr ⟨?_, ?_, ?_, ?_, ?_⟩, h.shape⟩
    · exact List.length_tail.trans_le ((Nat.sub_le _ _).trans hcap)
    · exact fun hr => by simp [hstopped hr]
    · exact fun g hg => hlen g (List.mem_of_mem_tail hg)
    · exact fun _ => rfl
    · exact fun _ => Nat.zero_lt_of_lt hlt
  · have hnext : s.txPos + 1 ≠ bytesOut s.cfg := by simpa [heof] using hmore
    refine ⟨h.reserved, h.latched, fun hr => absurd hr hidle, h.stream, (deframerInv_iff _).mpr hdeframer,
      (queueInv_iff _).mpr ⟨hcap, hstopped, hlen, by simp [hq], fun _ => Nat.lt_of_le_of_ne hlt hnext⟩, h.shape⟩

end Sys2Proof.Machine
end

section
/-! SUPPORT. What an instruction can do, said once, and the machine's invariant through every step. -/

namespace Sys2Proof.Machine

/-! ## What an instruction can do -/

/-- The words written to `CMD` (30_encoding.md R83, R84). -/
theorem commandOf_cases (w : Word) :
    (w = 0 ∧ commandOf w = .nop) ∨ (w = 1 ∧ commandOf w = .start) ∨ (w = 2 ∧ commandOf w = .stop)
      ∨ (w = 3 ∧ commandOf w = .softReset) ∨ (w = 4 ∧ commandOf w = .resync) ∨ (w = 5 ∧ commandOf w = .clearCounters)
      ∨ (w = 6 ∧ commandOf w = .clearErrors) ∨ commandOf w = .illegal := by
  by_cases hw : 7 ≤ w.toNat
  · simp [(commandOf_illegal_iff w).mpr hw]
  · have hlt : w.toNat < 7 := by omega
    obtain ⟨n, hn, rfl⟩ : ∃ n, n < 7 ∧ w = BitVec.ofNat 32 n := ⟨w.toNat, hlt, by simp⟩
    interval_cases n <;> simp [commandOf]

/-- `Effect s i t`: instruction `i` in state `s` may leave `t`. Rows with one effect share a constructor. -/
inductive Effect (s : State) : Instr → State → Prop
  /-- a command, by its row or by a write to `CMD` -/
  | command {i : Instr} (w : Word) (hi : IsCommand i (decodeCommand w) w) : Effect s i (runCommand (commandOf w) s)
  /-- `DIFF_RESERVED` in `IDLE` -/
  | reservedStart (hidle : s.run = .idle) : Effect s .diffReserved (startCommand (withDiffReserved s.cfg) s)
  /-- an illegal command, or a refused write -/
  | raised (i : Instr) (b : StatusBit) : Effect s i (raiseStatus b s)
  /-- a configuration register is written in `IDLE` -/
  | stored (off : BitVec 12) (v : Word) (r : Reg) (hr : regAt off = some r) (ha : accessOf r = .rwi)
      (hidle : s.run = .idle) : Effect s (.write off v) { s with cfg := setCfgReg s.cfg r (v &&& storedMask r) }
  /-- a value is returned, or nothing happens; the differential decoder also writes `LASTBIT` -/
  | answered (i : Instr) (a : Answer) (last : Bool) : Effect s i { s with answer := a, lastBit := last }
  /-- `VIT_DECODE` with a legal code -/
  | viterbi (z : List Soft) (a : Answer) (hcode : codeLegal (vitCode s.cfg) = true) :
      Effect s (.vitDecode z) { s with pm := (vitDecode (vitCode s.cfg) s.pm z).pm, answer := a }
  /-- an input beat -/
  | beat {i : Instr} (last : Bool) (d : Soft) (hi : i = if last then .symLast d else .sym d) :
      Effect s i (takeBeat last d s)
  /-- an output beat -/
  | delivered (b : OutBeat) (hb : outBeat s = some b) : Effect s .pop (withAnswer (.beat b) (deliverBeat b s))
  /-- `ACQ_EVAL` at its bit -/
  | attempted (hw : windowComplete .search s = true) : Effect s .acqEval (acqEval s)
  /-- `CHECK_EVAL` at its bit -/
  | checked (hw : windowComplete .check s = true) : Effect s .checkEval (checkEval s)
  /-- `COLLECT` at its bit -/
  | collected (hf : frameComplete s = true) : Effect s .collect (collectEnd s)
  /-- `FRAME_EMIT` at its bit -/
  | emitted (hf : frameComplete s = true) :
      Effect s .frameEmit (emitFrame s.deframer.pos s.deframer.hyp s.deframer.flag s.deframer.lock s)

theorem Effect.unchanged (s : State) (i : Instr) : Effect s i s := .answered i s.answer s.lastBit

/-- The write-only register stands at 0x008, the configuration registers from 0x010 to 0x030 (10_state.md R22). -/
theorem regAt_access {off : BitVec 12} {r : Reg} (h : regAt off = some r) :
    (accessOf r = .wo → off.toNat = 0x008) ∧ (accessOf r = .rwi → 0x010 ≤ off.toNat ∧ off.toNat ≤ 0x030) := by
  unfold regAt at h
  split at h
  case h_26 => split_ifs at h <;> cases h <;> simp [accessOf]
  all_goals
    next hoff =>
    cases h
    simp [accessOf, hoff]

/-- What a write can do at an aligned offset, by the access class there (R271). -/
theorem effect_writeWord (off : BitVec 12) (v : Word) (s : State) : Effect s (.write off v) (writeWord off v s) := by
  rcases writeWord_cases off v s with ⟨-, h⟩ | ⟨r, hr, ⟨ha, h⟩ | ⟨ha, h⟩ | ⟨-, h⟩⟩ <;> rw [h]
  · exact .unchanged s _
  · have hoff : off = 0x008 := BitVec.eq_of_toNat_eq ((regAt_access hr).1 ha)
    exact .command v (.inr (by rw [hoff]))
  · rcases writeCfg_cases r v s with ⟨hidle, h⟩ | ⟨-, h⟩ <;> rw [h]
    · exact .stored off v r hr ha hidle
    · exact .raised _ _
  · exact .raised _ _

theorem effect_rsDecodeOp (i : Instr) (profile : Bool) (frame : List Byte) (s : State) :
    Effect s i (rsDecodeOp profile frame s) := by
  unfold rsDecodeOp
  split
  · exact .answered i _ s.lastBit
  · exact .unchanged s i

/-- Every instruction that answers a next state has one of the effects. -/
theorem exec_effect {i : Instr} {s t : State} (h : exec i s = .next t) : Effect s i t := by
  cases i with
  | nop => cases h; exact .command 0 (.inl rfl)
  | start => cases h; exact .command 1 (.inl rfl)
  | stop => cases h; exact .command 2 (.inl rfl)
  | softReset => cases h; exact .command 3 (.inl rfl)
  | resync => cases h; exact .command 4 (.inl rfl)
  | clearCounters => cases h; exact .command 5 (.inl rfl)
  | clearErrors => cases h; exact .command 6 (.inl rfl)
  | cmdIllegal w => cases h; exact .raised _ .cmdErr
  | read off =>
    simp only [exec, execRead] at h
    split at h <;> cases h
    exact .answered _ _ s.lastBit
  | write off v =>
    simp only [exec, execWrite] at h
    split at h <;> cases h
    exact effect_writeWord off v s
  | sym d => cases h; exact .beat false d rfl
  | symLast d => cases h; exact .beat true d rfl
  | pop =>
    cases h
    cases hb : outBeat s with
    | none => exact .unchanged s _
    | some b => exact .delivered b hb
  | hypBpsk n hyp => cases h; exact .answered _ _ s.lastBit
  | hypQpsk n hyp => cases h; exact .answered _ _ s.lastBit
  | scoreHard n hyp => cases h; exact .answered _ _ s.lastBit
  | scoreSoft n hyp => cases h; exact .answered _ _ s.lastBit
  | derand x => cases h; exact .answered _ _ s.lastBit
  | nrzm y => cases h; exact .answered _ _ (hard y)
  | nrzs y => cases h; exact .answered _ _ (hard y)
  | hardPack z => cases h; exact .answered _ _ s.lastBit
  | vitDecode z =>
    cases h
    split
    · next hcode => exact .viterbi z _ hcode
    · exact .unchanged s _
  | rsDecode223 frame => cases h; exact effect_rsDecodeOp _ _ _ s
  | rsDecode239 frame => cases h; exact effect_rsDecodeOp _ _ _ s
  | diffReserved =>
    cases h
    split
    · next hlegal => exact .reservedStart ((commandLegal_start s.run).mp hlegal)
    · exact .raised _ .cmdErr
  | correlate n => cases h; exact .answered _ _ s.lastBit
  | acqEval =>
    cases h
    split
    · next hw => exact .attempted hw
    · exact .unchanged s _
  | collect =>
    cases h
    split
    · next hf => exact .collected hf
    · exact .unchanged s _
  | checkEval =>
    cases h
    split
    · next hw => exact .checked hw
    · exact .unchanged s _
  | frameEmit =>
    cases h
    split
    · next hf => exact .emitted hf
    · exact .unchanged s _

/-! ## Fields the invariant does not speak of -/

/-- The state with the fields that `MachineInv` does not speak of blanked out. -/
def invView (s : State) : State := { s with errors := errorsReset, lastBit := false, answer := .none, offers := [] }

theorem machineInv_invView_iff (s : State) : MachineInv (invView s) ↔ MachineInv s := by
  have hdeframer : DeframerInv (invView s) ↔ DeframerInv s := (deframerInv_iff _).trans (deframerInv_iff s).symm
  have hqueue : QueueInv (invView s) ↔ QueueInv s := (queueInv_iff _).trans (queueInv_iff s).symm
  exact
    ⟨fun h => ⟨h.reserved, h.latched, h.idleClean, h.stream, hdeframer.mp h.deframer, hqueue.mp h.queue, h.shape⟩,
      fun h => ⟨h.reserved, h.latched, h.idleClean, h.stream, hdeframer.mpr h.deframer, hqueue.mpr h.queue, h.shape⟩⟩

/-- A state that differs only in error bits, `LASTBIT`, the answer and the offers keeps the invariant. -/
theorem MachineInv.of_invView_eq {s t : State} (h : MachineInv s) (hview : invView t = invView s) : MachineInv t :=
  (machineInv_invView_iff t).mp (hview ▸ (machineInv_invView_iff s).mpr h)

theorem raiseStatus_machineInv {s : State} (h : MachineInv s) (b : StatusBit) : MachineInv (raiseStatus b s) :=
  h.of_invView_eq (by cases b <;> rfl)

/-! ## Resets and configuration writes -/

theorem newAvail_zero (c : CfgRegs) : newAvail c 0 = 0 := by simp [newAvail]

theorem shapeInv_reset : ShapeInv State.reset := by
  simp [ShapeInv, State.reset, pmReset, countersReset]

/-- In `IDLE` with nothing processed any configuration without reserved bits meets the invariant. -/
theorem machineInv_of_idle {s : State} (hreserved : ReservedZero s.cfg) (hrun : s.run = .idle)
    (hdeframer : s.deframer = deframerReset) (hsoft : s.soft = []) (hnv : s.nv = 0) (havail : s.avail = 0)
    (hqueue : s.queue = []) (htx : s.txPos = 0) (hshape : ShapeInv s) : MachineInv s where
  reserved := hreserved
  latched := fun h => absurd hrun h
  idleClean := fun _ => ⟨hdeframer, hnv, hqueue⟩
  stream := by simp [StreamInv, hsoft, hnv, havail, newAvail_zero]
  deframer := (deframerInv_iff s).mpr ⟨hdeframer ▸ lockInv_deframerReset s.cfg, fun h => absurd hrun h⟩
  queue := queueInv_of_empty hqueue htx
  shape := hshape

theorem reservedZero_cfgReset : ReservedZero cfgReset := by
  unfold ReservedZero
  decide

theorem hardReset_machineInv (s : State) : MachineInv (hardReset s) :=
  machineInv_of_idle reservedZero_cfgReset rfl rfl rfl rfl rfl rfl rfl shapeInv_reset

theorem softResetState_machineInv {s : State} (h : MachineInv s) : MachineInv (softResetState s) :=
  machineInv_of_idle h.reserved rfl rfl rfl rfl rfl rfl rfl shapeInv_reset

theorem setCfgReg_reservedZero {c : CfgRegs} (h : ReservedZero c) (r : Reg) (v : Word) :
    ReservedZero (setCfgReg c r (v &&& storedMask r)) := by
  have hmasked : v &&& storedMask r &&& ~~~storedMask r = 0 := by
    rw [BitVec.and_assoc, BitVec.and_not_self]
    exact BitVec.and_zero
  obtain ⟨hmode, hsyncLen, hlockCfg, hvitCfg⟩ := h
  cases r
  case mode => exact ⟨hmasked, hsyncLen, hlockCfg, hvitCfg⟩
  case syncLen => exact ⟨hmode, hmasked, hlockCfg, hvitCfg⟩
  case lockCfg => exact ⟨hmode, hsyncLen, hmasked, hvitCfg⟩
  case vitCfg => exact ⟨hmode, hsyncLen, hlockCfg, hmasked⟩
  all_goals exact ⟨hmode, hsyncLen, hlockCfg, hvitCfg⟩

theorem setCfg_machineInv {s : State} (h : MachineInv s) (hidle : s.run = .idle) {c : CfgRegs} (hc : ReservedZero c) :
    MachineInv { s with cfg := c } := by
  obtain ⟨hdeframer, hnv, hqueue⟩ := h.idleClean hidle
  obtain ⟨hsoft, havail⟩ := h.stream
  obtain ⟨-, -, -, htx, -⟩ := (queueInv_iff s).mp h.queue
  exact machineInv_of_idle hc hidle hdeframer (List.eq_nil_of_length_eq_zero (hsoft.trans hnv)) hnv
    (by rw [havail, hnv, newAvail_zero]) hqueue (htx hqueue) h.shape

/-! ## Commands -/

theorem startRun_machineInv {s : State} (h : MachineInv s) (hc : startFail s.cfg = 0) : MachineInv (startRun s) where
  reserved := h.reserved
  latched := fun _ => hc
  idleClean := fun hidle => by simp [startRun] at hidle
  stream := ⟨rfl, (newAvail_zero s.cfg).symm⟩
  deframer := by
    refine (deframerInv_iff _).mpr ⟨lockInv_deframerReset s.cfg, fun _ => ?_⟩
    have hpos := markerLen_pos_of_legal hc
    simpa [startRun, dueAt, deframerReset] using hpos
  queue := queueInv_of_empty rfl rfl
  shape := ⟨List.length_replicate, h.shape.2⟩

theorem startCommand_machineInv {s : State} (h : MachineInv s) {c : CfgRegs}
    (hc : startFail c = 0 → startFail s.cfg = 0) : MachineInv (startCommand c s) := by
  rcases startCommand_cases c s with ⟨hlegal, heq⟩ | ⟨-, heq⟩ <;> rw [heq]
  · exact startRun_machineInv h (hc hlegal)
  · exact h.of_invView_eq rfl

/-- `STOP` keeps the deframer where it stood and drops the queue. -/
theorem stopCommand_machineInv {s : State} (h : MachineInv s) (hrun : s.run ≠ .idle) : MachineInv (stopCommand s) := by
  have hstopped : MachineInv { s with run := .stopped, queue := [], txPos := 0 } := by
    obtain ⟨hlock, hdue⟩ := (deframerInv_iff s).mp h.deframer
    exact
      { reserved := h.reserved
        latched := fun _ => h.latched hrun
        idleClean := fun hidle => by simp at hidle
        stream := h.stream
        deframer := (deframerInv_iff _).mpr ⟨hlock, fun _ => hdue hrun⟩
        queue := queueInv_of_empty rfl rfl
        shape := h.shape }
  rcases stopCommand_cases s with ⟨-, -, heq⟩ | ⟨-, heq⟩ <;> rw [heq]
  · exact hstopped.of_invView_eq rfl
  · exact hstopped

/-- `RESYNC` searches from the next bit to arrive, so the next window lies ahead. -/
theorem deframerResync_machineInv {s : State} (h : MachineInv s) (hrun : s.run = .running) :
    MachineInv (deframerResync s) := by
  have hbeat := h.beatInv hrun
  have hpos := markerLen_pos_of_legal hbeat.legal
  have hready : DeframerReady (deframerResync s) := by
    refine ⟨lockInv_searching rfl rfl rfl rfl rfl, ?_⟩
    simpa [deframerResync, dueAt] using hpos
  have hresynced : BeatInv (deframerResync s) :=
    ⟨hrun, hbeat.legal, hready, hbeat.frame_len, hbeat.tx_empty, hbeat.tx_lt, List.length_replicate, h.shape.2⟩
  exact hresynced.machineInv h.reserved h.stream h.queue.le_cap

theorem clearCountersCommand_machineInv {s : State} (h : MachineInv s) : MachineInv (clearCountersCommand s) :=
  ⟨h.reserved, h.latched, h.idleClean, h.stream, (deframerInv_iff _).mpr ((deframerInv_iff s).mp h.deframer),
    (queueInv_iff _).mpr ((queueInv_iff s).mp h.queue), h.shape.1, shapeInv_reset.2⟩

theorem runCommand_machineInv {s : State} (h : MachineInv s) (cmd : Command) : MachineInv (runCommand cmd s) := by
  rcases runCommand_cases cmd s with ⟨hlegal, heq⟩ | ⟨-, heq⟩ <;> rw [heq]
  · cases cmd with
    | nop => exact h
    | start => exact startCommand_machineInv h id
    | stop => exact stopCommand_machineInv h ((commandLegal_stop s.run).mp hlegal)
    | softReset => exact softResetState_machineInv h
    | resync => exact deframerResync_machineInv h ((commandLegal_resync s.run).mp hlegal)
    | clearCounters => exact clearCountersCommand_machineInv h
    | clearErrors => exact h.of_invView_eq rfl
    | illegal => exact h
  · exact raiseStatus_machineInv h .cmdErr

/-! ## Rows invoked alone -/

theorem vitDecode_machineInv {s : State} (h : MachineInv s) (hcode : codeLegal (vitCode s.cfg) = true) (z : List Soft)
    (a : Answer) : MachineInv { s with pm := (vitDecode (vitCode s.cfg) s.pm z).pm, answer := a } :=
  ⟨h.reserved, h.latched, h.idleClean, h.stream, (deframerInv_iff _).mpr ((deframerInv_iff s).mp h.deframer),
    (queueInv_iff _).mpr ((queueInv_iff s).mp h.queue), vitDecode_pm_length hcode h.shape.1 z, h.shape.2⟩

/-- Between events the deframer's next window lies ahead, so no row that needs one selects itself (R152). -/
theorem MachineInv.not_windowComplete {s : State} (h : MachineInv s) {ph : Phase} (hph : ph ≠ .collect) :
    windowComplete ph s = false := by
  refine decide_eq_false fun ⟨hrun, hphase, hend⟩ => ?_
  have hahead := h.deframer.window_ahead (by simp [hrun]) (by simpa [hphase] using hph)
  omega

theorem MachineInv.not_frameComplete {s : State} (h : MachineInv s) : frameComplete s = false := by
  refine decide_eq_false fun ⟨hrun, hphase, hend⟩ => ?_
  have hahead := h.deframer.frame_ahead (by simp [hrun]) hphase
  omega

/-! ## Every step -/

theorem Effect.machineInv {s t : State} {i : Instr} (he : Effect s i t) (h : MachineInv s) : MachineInv t := by
  cases he with
  | command w hi => exact runCommand_machineInv h _
  | reservedStart hidle => exact startCommand_machineInv h fun hc => absurd hc (startFail_withDiffReserved s.cfg)
  | raised i b => exact raiseStatus_machineInv h b
  | stored off v r hr ha hidle => exact setCfg_machineInv h hidle (setCfgReg_reservedZero h.reserved r v)
  | answered i a last => exact h.of_invView_eq rfl
  | viterbi z a hcode => exact vitDecode_machineInv h hcode z a
  | beat last d hi => exact takeBeat_machineInv h last d
  | delivered b hb => exact (deliverBeat_machineInv h hb).of_invView_eq rfl
  | attempted hw => simp [h.not_windowComplete] at hw
  | checked hw => simp [h.not_windowComplete] at hw
  | collected hf => simp [h.not_frameComplete] at hf
  | emitted hf => simp [h.not_frameComplete] at hf

theorem step_machineInv {s t : State} (h : MachineInv s) (hstep : step s = .next t) : MachineInv t := by
  rcases step_cases s with ⟨-, heq⟩ | ⟨o, rest, -, ⟨-, heq⟩ | ⟨-, i, -, heq⟩ | ⟨-, e, -, heq⟩⟩ <;>
    rw [heq] at hstep
  · cases hstep; exact h
  · cases hstep; exact hardReset_machineInv _
  · exact (exec_effect hstep).machineInv (h.of_invView_eq rfl)
  · cases hstep

/-- Settles O55: whichever offer the step takes, its effect keeps every clause of the invariant. -/
theorem stepKeepsMachineInvariant : Obligations.StepKeepsMachineInvariant := fun _ _ => step_machineInv

/-- Settles O54: the reset state, with any offers, is what a hardware reset leaves. -/
theorem machineInvariantAtReset : Obligations.MachineInvariantAtReset := fun os =>
  hardReset_machineInv { State.reset with offers := os }

end Sys2Proof.Machine
end

section
/-! SUPPORT. The register views `STATUS` and `HYP`, the resets, and what the instructions do to the configuration and the error
bits. -/

namespace Sys2Proof.Machine

/-! ## `STATUS` (10_state.md R25) -/

theorem lockCode_le (l : Lock) : lockCode l ≤ 2 := by cases l <;> decide

theorem runCode_le (r : RunState) : runCode r ≤ 3 := by cases r <;> decide

/-- A bit of a word, read off the word's number. -/
theorem getLsbD_of_div_mod {w : Word} {i : Nat} {b : Bool} (h : w.toNat / 2 ^ i % 2 = b.toNat) : w.getLsbD i = b := by
  rw [BitVec.getLsbD, Nat.testBit_eq_decide_div_mod_eq, h]
  cases b <;> rfl

/-- A field of a word, read off the word's number. -/
theorem extractLsb'_toNat (w : Word) (lo width : Nat) :
    (w.extractLsb' lo width).toNat = w.toNat / 2 ^ lo % 2 ^ width := by
  rw [BitVec.extractLsb'_toNat, Nat.shiftRight_eq_div_pow]

/-- Each field of `STATUS` but the two counts fits its place. -/
theorem statusField_bounds (s : State) :
    lockCode s.deframer.lock ≤ 2 ∧ runCode s.run ≤ 3 ∧ s.errors.cfgErr.toNat ≤ 1 ∧ s.errors.cmdErr.toNat ≤ 1
      ∧ s.errors.wrErr.toNat ≤ 1 ∧ (outClosed s).toNat ≤ 1 ∧ s.errors.aborted.toNat ≤ 1 ∧ (inReady s).toNat ≤ 1
      ∧ s.errors.cfgFail.toNat < 8 :=
  ⟨lockCode_le _, runCode_le _, Bool.toNat_le _, Bool.toNat_le _, Bool.toNat_le _, Bool.toNat_le _, Bool.toNat_le _,
    Bool.toNat_le _, s.errors.cfgFail.isLt⟩

/-- The number `STATUS` holds: the fields fit their places, so nothing is lost in the sum. -/
theorem statusWord_toNat {s : State} (hgood : s.deframer.good ≤ 255) (hmiss : s.deframer.miss ≤ 255) :
    (statusWord s).toNat
      = lockCode s.deframer.lock + runCode s.run * 4 + s.errors.cfgErr.toNat * 16 + s.errors.cmdErr.toNat * 32
        + s.errors.wrErr.toNat * 64 + (outClosed s).toNat * 128 + s.errors.aborted.toNat * 256 + (inReady s).toNat * 512
        + s.errors.cfgFail.toNat * 4096 + s.deframer.good * 65536 + s.deframer.miss * 16777216 := by
  have hbounds := statusField_bounds s
  rw [statusWord, BitVec.toNat_ofNat]
  omega

/-- Settles O9: each field is cut out of the sum of all fields. -/
theorem statusFields : Obligations.StatusFields := by
  intro s hgood hmiss
  have hword := statusWord_toNat hgood hmiss
  have hbounds := statusField_bounds s
  have hclosed : (statusWord s).getLsbD 7 = outClosed s := getLsbD_of_div_mod (by omega)
  refine ⟨?_, ?_, getLsbD_of_div_mod (by omega), getLsbD_of_div_mod (by omega), getLsbD_of_div_mod (by omega),
    hclosed ▸ outClosed_iff s, getLsbD_of_div_mod (by omega), getLsbD_of_div_mod (by omega),
    BitVec.eq_of_toNat_eq ?_, ?_, ?_, ?_⟩ <;> rw [extractLsb'_toNat]
  · omega
  · omega
  · simp only [BitVec.ofNat_eq_ofNat, BitVec.toNat_ofNat]; omega
  · omega
  · omega
  · omega

/-! ## `HYP` (10_state.md R37) -/

theorem readWord_hyp (s : State) : readWord s 0x058 = hypWord s.deframer.hyp := rfl

/-- The fields of the `HYP` register, for each of the eight hypothesis indices. -/
theorem hypWord_fields : ∀ h : BitVec 3,
    (hypWord h).extractLsb' 0 3 = h
      ∧ ((hypWord h).extractLsb' 3 2).toNat = ((h.getLsbD 1).toNat + 2 * (h.getLsbD 0).toNat) % 4
      ∧ (hypWord h).getLsbD 5 = h.getLsbD 2 ∧ (hypWord h).getLsbD 6 = h.getLsbD 0 ∧ (hypWord h) >>> 7 = 0 := by
  decide

/-- Only rotations by 0 and by 180 degrees are left for the indices of BPSK. -/
theorem hypWord_phase_bpsk : ∀ h : BitVec 3, h.toNat < 2 →
    ((hypWord h).extractLsb' 3 2).toNat = 0 ∨ ((hypWord h).extractLsb' 3 2).toNat = 2 := by
  decide

/-- Settles O10: the view is a function of the held index, which `CLEAR_COUNTERS` keeps. -/
theorem hypRegisterFields : Obligations.HypRegisterFields := by
  intro s
  obtain ⟨hindex, hphase, hswap, hinverted, hzero⟩ := hypWord_fields s.deframer.hyp
  rw [readWord_hyp s]
  exact ⟨hindex, hphase, hswap, hinverted, hzero, rfl, ⟨_, rfl, rfl⟩, hypWord_phase_bpsk s.deframer.hyp⟩

/-! ## Resets (10_state.md R54) -/

/-- No register shows the offers. -/
theorem readWord_hardReset (s : State) (off : BitVec 12) : readWord (hardReset s) off = readWord State.reset off := by
  unfold readWord
  cases regAt off with
  | none => rfl
  | some r => cases r <;> rfl

/-- Only the configuration registers show the configuration. -/
theorem regValue_softResetState (s : State) {r : Reg} (hr : accessOf r ≠ .rwi) :
    regValue (softResetState s) r = regValue State.reset r := by
  cases r
  case mode | syncLen | syncWordLo | syncWordHi | frameBits | acqThresh | chkThresh | lockCfg | vitCfg =>
    exact absurd rfl hr
  all_goals rfl

/-- Beyond the configuration registers `SOFT_RESET` and a hardware reset read the same. -/
theorem readWord_softResetState (s : State) {off : BitVec 12} (hoff : 0x030 < off.toNat) :
    readWord (softResetState s) off = readWord State.reset off := by
  cases hr : regAt off with
  | none => rw [readWord_reserved hr, readWord_reserved hr]
  | some r =>
    rw [readWord_of_regAt hr, readWord_of_regAt hr]
    refine regValue_softResetState s fun ha => ?_
    have hcfg := (regAt_access hr).2 ha
    omega

theorem counterOffsets_beyond_cfg : ∀ off ∈ counterOffsets, 0x030 < off.toNat := by
  simp [counterOffsets]

theorem resetReads_reset : ∀ p ∈ resetReads, readWord State.reset p.1 = p.2 := by
  simp only [resetReads, List.forall_mem_cons, List.not_mem_nil, false_implies, implies_true, and_true]
  decide +kernel

theorem counterOffsets_reset : ∀ off ∈ counterOffsets, readWord State.reset off = 0 := by
  simp only [counterOffsets, List.forall_mem_cons, List.not_mem_nil, false_implies, implies_true, and_true]
  decide +kernel

theorem pmReset_getD (st : Nat) : pmReset.getD st 0 = 0 := by
  rw [pmReset, List.getD_eq_getElem?_getD, List.getElem?_replicate]
  split <;> rfl

theorem internalAtReset_hardReset (s : State) : InternalAtReset (hardReset s) :=
  ⟨rfl, rfl, rfl, rfl, rfl, rfl, rfl, rfl, rfl, rfl, rfl, rfl, pmReset_getD, rfl, rfl, rfl, rfl, rfl, rfl, rfl⟩

theorem internalAtReset_softResetState (s : State) : InternalAtReset (softResetState s) :=
  internalAtReset_hardReset s

/-- Settles O1: both resets leave `State.reset` but for fields that the listed registers do not show. -/
theorem resetsLeaveResetValues : Obligations.ResetsLeaveResetValues := by
  intro s
  refine ⟨⟨internalAtReset_hardReset s, fun p hp => ?_, fun off hoff => ?_, rfl, rfl⟩,
    softResetState s, rfl, internalAtReset_softResetState s, fun off hoff => ?_, rfl⟩
  · exact (readWord_hardReset s p.1).trans (resetReads_reset p hp)
  · exact (readWord_hardReset s off).trans (counterOffsets_reset off hoff)
  · exact (readWord_softResetState s (counterOffsets_beyond_cfg off hoff)).trans (counterOffsets_reset off hoff)

/-! ## What the shared operations leave of the configuration and the error bits -/

theorem takeBeat_cfg_errors (last : Bool) (v : Soft) (s : State) :
    (takeBeat last v s).cfg = s.cfg ∧ (takeBeat last v s).errors = s.errors := by
  have haccept : (acceptSoft v s).cfg = s.cfg ∧ (acceptSoft v s).errors = s.errors := by
    have hw := bitWrites_availBits (newAvail s.cfg (s.nv + 1) - s.avail) (withSoft v s)
    exact ⟨hw.cfg_eq, hw.errors_eq⟩
  rcases takeBeat_cases last v s with ⟨-, h⟩ | ⟨-, h⟩ | ⟨-, -, h⟩ <;> rw [h]
  · exact ⟨rfl, rfl⟩
  · exact ⟨rfl, rfl⟩
  · cases last
    · exact haccept
    · exact haccept

theorem deliverBeat_cfg_errors (b : OutBeat) (s : State) :
    (deliverBeat b s).cfg = s.cfg ∧ (deliverBeat b s).errors = s.errors := by
  rcases deliverBeat_cases b s with ⟨-, h⟩ | ⟨-, h⟩ <;> rw [h] <;> exact ⟨rfl, rfl⟩

theorem startCommand_cfg (c : CfgRegs) (s : State) : (startCommand c s).cfg = s.cfg := by
  rcases startCommand_cases c s with ⟨-, h⟩ | ⟨-, h⟩ <;> rw [h] <;> rfl

theorem stopCommand_cfg (s : State) : (stopCommand s).cfg = s.cfg := by
  rcases stopCommand_cases s with ⟨-, -, h⟩ | ⟨-, h⟩ <;> rw [h]

/-- No command writes a configuration register. -/
theorem runCommand_cfg (cmd : Command) (s : State) : (runCommand cmd s).cfg = s.cfg := by
  rcases runCommand_cases cmd s with ⟨-, h⟩ | ⟨-, h⟩ <;> rw [h]
  · cases cmd with
    | start => exact startCommand_cfg s.cfg s
    | stop => exact stopCommand_cfg s
    | _ => rfl
  · exact raiseStatus_cfg .cmdErr s

/-- An effect keeps the configuration, or is the write of one of its registers in `IDLE`. -/
theorem Effect.cfg_eq_or_stored {s t : State} {i : Instr} (he : Effect s i t) :
    t.cfg = s.cfg
      ∨ (s.run = .idle ∧ t = { s with cfg := t.cfg }
        ∧ ∃ (off : BitVec 12) (v : Word), i = .write off v ∧ 0x010 ≤ off.toNat ∧ off.toNat ≤ 0x030) := by
  cases he with
  | command w hi => exact .inl (runCommand_cfg _ s)
  | reservedStart hidle => exact .inl (startCommand_cfg _ s)
  | raised i b => exact .inl (raiseStatus_cfg b s)
  | stored off v r hr ha hidle => exact .inr ⟨hidle, rfl, off, v, rfl, (regAt_access hr).2 ha⟩
  | answered i a last => exact .inl rfl
  | viterbi z a hcode => exact .inl rfl
  | beat last d hi => exact .inl (takeBeat_cfg_errors last d s).1
  | delivered b hb => exact .inl (deliverBeat_cfg_errors b s).1
  | attempted hw => exact .inl (markerWrites_acqEval s).bitWrites.cfg_eq
  | checked hw => exact .inl (markerWrites_checkEval s).bitWrites.cfg_eq
  | collected hf => exact .inl rfl
  | emitted hf => exact .inl rfl

/-- Settles O58: of all effects only the stored register changes the configuration. -/
theorem configurationChangesOnlyInIdle : Obligations.ConfigurationChangesOnlyInIdle :=
  fun _ _ _ hexec hchanged => (exec_effect hexec).cfg_eq_or_stored.resolve_left hchanged

/-! ## Error bits (60_exceptions.md R306) -/

/-- Every error bit set in `e` is set in `e'`. -/
def BitsKept (e e' : ErrorBits) : Prop :=
  (e.cfgErr = true → e'.cfgErr = true) ∧ (e.cmdErr = true → e'.cmdErr = true)
    ∧ (e.wrErr = true → e'.wrErr = true) ∧ (e.aborted = true → e'.aborted = true)

theorem BitsKept.refl (e : ErrorBits) : BitsKept e e := ⟨id, id, id, id⟩

/-- Error bits are kept and `CFG_FAIL` is too, or a failing `START` in `IDLE` has set `CFG_ERR` and rewritten it. -/
def ErrorsKept (i : Instr) (s t : State) : Prop :=
  BitsKept s.errors t.errors
    ∧ (t.errors.cfgFail ≠ s.errors.cfgFail →
        s.run = .idle ∧ t.errors.cfgErr = true ∧ (IsCommand i .start 1 ∨ i = .diffReserved))

theorem errorsKept_of_errors_eq {s t : State} (i : Instr) (h : t.errors = s.errors) : ErrorsKept i s t := by
  unfold ErrorsKept
  rw [h]
  exact ⟨.refl _, fun hne => absurd rfl hne⟩

theorem errorsKept_raiseStatus (i : Instr) (b : StatusBit) (s : State) : ErrorsKept i s (raiseStatus b s) := by
  cases b with
  | cfgErr => exact ⟨⟨fun _ => rfl, id, id, id⟩, fun hne => absurd rfl hne⟩
  | cmdErr => exact ⟨⟨id, fun _ => rfl, id, id⟩, fun hne => absurd rfl hne⟩
  | wrErr => exact ⟨⟨id, id, fun _ => rfl, id⟩, fun hne => absurd rfl hne⟩
  | aborted => exact ⟨⟨id, id, id, fun _ => rfl⟩, fun hne => absurd rfl hne⟩

theorem errorsKept_startCommand {i : Instr} (hi : IsCommand i .start 1 ∨ i = .diffReserved) {s : State}
    (hidle : s.run = .idle) (c : CfgRegs) : ErrorsKept i s (startCommand c s) := by
  rcases startCommand_cases c s with ⟨-, h⟩ | ⟨-, h⟩ <;> rw [h]
  · exact errorsKept_of_errors_eq i rfl
  · exact ⟨⟨fun _ => rfl, id, id, id⟩, fun _ => ⟨hidle, rfl, hi⟩⟩

theorem errorsKept_stopCommand (i : Instr) (s : State) : ErrorsKept i s (stopCommand s) := by
  rcases stopCommand_cases s with ⟨-, -, h⟩ | ⟨-, h⟩ <;> rw [h]
  · exact ⟨⟨id, id, id, fun _ => rfl⟩, fun hne => absurd rfl hne⟩
  · exact errorsKept_of_errors_eq i rfl

theorem errorsKept_runCommand {i : Instr} {w : Word} (hi : IsCommand i (decodeCommand w) w)
    (hclear : ¬ IsCommand i .clearErrors 6) (hreset : ¬ IsCommand i .softReset 3) (s : State) :
    ErrorsKept i s (runCommand (commandOf w) s) := by
  rcases runCommand_cases (commandOf w) s with ⟨hlegal, h⟩ | ⟨-, h⟩ <;> rw [h]
  · rcases commandOf_cases w with
      ⟨rfl, hw⟩ | ⟨rfl, hw⟩ | ⟨rfl, hw⟩ | ⟨rfl, hw⟩ | ⟨rfl, hw⟩ | ⟨rfl, hw⟩ | ⟨rfl, hw⟩ | hw <;>
      rw [hw] at hlegal ⊢
    · exact errorsKept_of_errors_eq i rfl
    · exact errorsKept_startCommand (.inl hi) ((commandLegal_start s.run).mp hlegal) s.cfg
    · exact errorsKept_stopCommand i s
    · exact absurd hi hreset
    · exact errorsKept_of_errors_eq i rfl
    · exact errorsKept_of_errors_eq i rfl
    · exact absurd hi hclear
    · exact errorsKept_of_errors_eq i rfl
  · exact errorsKept_raiseStatus i .cmdErr s

theorem Effect.errorsKept {s t : State} {i : Instr} (he : Effect s i t) (hclear : ¬ IsCommand i .clearErrors 6)
    (hreset : ¬ IsCommand i .softReset 3) : ErrorsKept i s t := by
  cases he with
  | command w hi => exact errorsKept_runCommand hi hclear hreset s
  | reservedStart hidle => exact errorsKept_startCommand (.inr rfl) hidle _
  | raised i b => exact errorsKept_raiseStatus _ b s
  | stored off v r hr ha hidle => exact errorsKept_of_errors_eq _ rfl
  | answered i a last => exact errorsKept_of_errors_eq _ rfl
  | viterbi z a hcode => exact errorsKept_of_errors_eq _ rfl
  | beat last d hi => exact errorsKept_of_errors_eq _ (takeBeat_cfg_errors last d s).2
  | delivered b hb => exact errorsKept_of_errors_eq _ (deliverBeat_cfg_errors b s).2
  | attempted hw => exact errorsKept_of_errors_eq _ (markerWrites_acqEval s).bitWrites.errors_eq
  | checked hw => exact errorsKept_of_errors_eq _ (markerWrites_checkEval s).bitWrites.errors_eq
  | collected hf => exact errorsKept_of_errors_eq _ rfl
  | emitted hf => exact errorsKept_of_errors_eq _ rfl

/-- Settles O60: of all effects only a refused `START` rewrites `CFG_FAIL`, and none but the two excluded clears a bit. -/
theorem errorBitsAreSticky : Obligations.ErrorBitsAreSticky := by
  intro i s t hexec hclear hreset
  obtain ⟨⟨hcfg, hcmd, hwr, haborted⟩, hfail⟩ := (exec_effect hexec).errorsKept hclear hreset
  exact ⟨hcfg, hcmd, hwr, haborted, hfail⟩

end Sys2Proof.Machine
end

section
/-! SUPPORT. Host accesses that are refused (20_memory.md R66), and what an instruction does to the output queue
(20_memory.md R71; 46_frame_chain.md R256). -/

namespace Sys2Proof

/-! ## Refused host transactions -/

theorem wfOffset_eq_false_iff (off : BitVec 12) : wfOffset off = false ↔ off.toNat % 4 ≠ 0 := decide_eq_false_iff_not

theorem decodeHost_of_length_ne {bytes : List Byte} (hlen : bytes.length ≠ 6) : decodeHost bytes = .error .accessWidth :=
  if_pos hlen

/-- Bits 2:1 of a transaction are bits 1:0 of its offset: where one is set, it is refused in either direction and with any data. -/
theorem decodeHost_leBytes_misaligned {t : Nat} (hlt : t < 2 ^ 45) (hoff : t / 2 % 4 ≠ 0) :
    decodeHost (leBytes 6 t) = .error .misalignedOffset := by
  have hbytes : ofLeBytes (leBytes 6 t) = t := ofLeBytes_leBytes (by omega)
  have hreserved : t / 2 ^ 45 = 0 := Nat.div_eq_of_lt hlt
  have hfield : wfOffset (BitVec.ofNat 12 (t / 2)) = false := by
    rw [wfOffset_eq_false_iff, BitVec.toNat_ofNat]
    omega
  simp only [decodeHost, hbytes, hreserved, hfield, leBytes_length, ne_eq, not_true_eq_false, if_false, if_true]

end Sys2Proof

namespace Sys2Proof.Machine

theorem step_of_decode_error {s : State} {o : Offer} {rest : List Offer} {e : DecodeError}
    (ht : takeOffer s s.offers = some (o, rest)) (hp : o.port ≠ .reset) (hd : decode o.port o.bytes = .error e) :
    step s = .refused (.badEncoding e) := by
  simp only [step, ht, if_neg hp, hd]

/-- The host port accepts always, so a host offer that stands first is the one a step refuses. -/
theorem step_of_decodeHost_error {s : State} {bytes : List Byte} {rest : List Offer} {e : DecodeError}
    (hs : s.offers = { port := .host, bytes := bytes } :: rest) (hd : decodeHost bytes = .error e) :
    step s = .refused (.badEncoding e) := by
  have ht : takeOffer s s.offers = some ({ port := .host, bytes := bytes }, rest) := by
    rw [hs]
    exact takeOffer_first rfl
  exact step_of_decode_error ht Port.noConfusion hd

theorem exec_read_misaligned {off : BitVec 12} (hoff : wfOffset off = false) (s : State) :
    exec (.read off) s = .refused .misalignedAccess := by
  simp [exec, execRead, hoff]

theorem exec_write_misaligned {off : BitVec 12} (hoff : wfOffset off = false) (v : Word) (s : State) :
    exec (.write off v) s = .refused .misalignedAccess := by
  simp [exec, execWrite, hoff]

/-- Settles O6: the meanings refuse by the offset itself, and the step by what the decoder says of the transaction's bytes. -/
theorem misalignedAndNarrowAccessesRefused : Obligations.MisalignedAndNarrowAccessesRefused := by
  refine ⟨fun off v s hoff => ?_, fun s bytes rest hs hlen => ?_, fun s off rest hoff hs => ?_,
    fun s off v rest hoff hs => ?_⟩
  · have hbad := (wfOffset_eq_false_iff off).mpr hoff
    exact ⟨exec_read_misaligned hbad s, exec_write_misaligned hbad v s⟩
  · exact step_of_decodeHost_error hs (decodeHost_of_length_ne hlen)
  · have hofflt := off.isLt
    exact step_of_decodeHost_error hs (decodeHost_leBytes_misaligned (by omega) (by omega))
  · have hofflt := off.isLt
    have hvlt := v.isLt
    exact step_of_decodeHost_error hs (decodeHost_leBytes_misaligned (by omega) (by omega))

/-! ## The output queue through a beat -/

/-- The bits of one beat queue one frame at most: the bit after the end of a frame is part of the next marker. -/
theorem availBits_queue {count : Nat} (hcount : count ≤ 2) (s : State) :
    (availBits count s).queue = s.queue ∨ ∃ f, (availBits count s).queue = s.queue ++ [f] := by
  match count, hcount with
  | 0, _ => exact .inl rfl
  | 1, _ => exact (availBit_queue s).imp_right fun ⟨_, _, f, hq, _⟩ => ⟨f, hq⟩
  | 2, _ =>
    change (availBit (availBit s)).queue = s.queue ∨ ∃ f, (availBit (availBit s)).queue = s.queue ++ [f]
    rcases availBit_queue s with hfirst | ⟨-, hcheck, f, hfirst, -⟩ <;>
      rcases availBit_queue (availBit s) with hsecond | ⟨hcollect, -, g, hsecond, -⟩ <;> rw [hsecond, hfirst]
    · exact .inl rfl
    · exact .inr ⟨g, rfl⟩
    · exact .inr ⟨f, rfl⟩
    · simp [hcheck] at hcollect

theorem acceptSoft_queue {s : State} (hstream : StreamInv s) (v : Soft) :
    (acceptSoft v s).queue = s.queue ∨ ∃ f, (acceptSoft v s).queue = s.queue ++ [f] := by
  obtain ⟨-, havail⟩ := hstream
  rw [acceptSoft_eq]
  exact availBits_queue (havail ▸ newAvail_succ_sub_le s.cfg s.nv) (withSoft v s)

theorem takeBeat_queue {s : State} (hstream : StreamInv s) (last : Bool) (v : Soft) :
    (takeBeat last v s).queue = s.queue ∨ ∃ f, (takeBeat last v s).queue = s.queue ++ [f] := by
  rcases takeBeat_cases last v s with ⟨-, h⟩ | ⟨-, h⟩ | ⟨-, -, h⟩ <;> rw [h]
  · exact .inl rfl
  · exact .inl rfl
  · cases last
    · exact acceptSoft_queue hstream v
    · exact acceptSoft_queue hstream v

theorem deliverBeat_queue (b : OutBeat) (s : State) :
    (deliverBeat b s).queue = s.queue ∨ (deliverBeat b s).queue = s.queue.tail := by
  rcases deliverBeat_cases b s with ⟨-, h⟩ | ⟨-, h⟩ <;> rw [h]
  · exact .inr rfl
  · exact .inl rfl

/-! ## The output queue through a command -/

/-- `START` empties the queue, which is empty already in `IDLE`. -/
theorem startCommand_queue {s : State} (hclean : IdleClean s) (hidle : s.run = .idle) (c : CfgRegs) :
    (startCommand c s).queue = s.queue := by
  obtain ⟨-, -, hempty⟩ := hclean hidle
  rcases startCommand_cases c s with ⟨-, h⟩ | ⟨-, h⟩ <;> rw [h]
  · exact hempty.symm
  · exact raiseCfgFail_queue _ s

theorem stopCommand_queue (s : State) : (stopCommand s).queue = [] := rfl

/-- Only `STOP` and `SOFT_RESET` touch the queue, and both empty it. -/
theorem runCommand_queue {s : State} (hclean : IdleClean s) (cmd : Command) :
    (runCommand cmd s).queue = s.queue
      ∨ ((cmd = .stop ∨ cmd = .softReset) ∧ (runCommand cmd s).queue = []) := by
  rcases runCommand_cases cmd s with ⟨hlegal, h⟩ | ⟨-, h⟩ <;> rw [h]
  · cases cmd with
    | start => exact .inl (startCommand_queue hclean ((commandLegal_start s.run).mp hlegal) s.cfg)
    | stop => exact .inr ⟨.inl rfl, stopCommand_queue s⟩
    | softReset => exact .inr ⟨.inr rfl, rfl⟩
    | _ => exact .inl rfl
  · exact .inl (raiseStatus_queue .cmdErr s)

theorem eq_two_of_commandOf_stop {w : Word} (h : commandOf w = .stop) : w = 2 := by
  simpa [h] using commandOf_cases w

theorem eq_three_of_commandOf_softReset {w : Word} (h : commandOf w = .softReset) : w = 3 := by
  simpa [h] using commandOf_cases w

/-! ## The output queue through an instruction -/

/-- What instruction `i` may do to the queue between `s` and `t`: nothing, take the head, add one frame at the tail, or drop
everything (20_memory.md R71; 46_frame_chain.md R256). -/
def QueueMoves (i : Instr) (s t : State) : Prop :=
  t.queue = s.queue
    ∨ (i = .pop ∧ t.queue = s.queue.tail)
    ∨ (((∃ d, i = .sym d) ∨ (∃ d, i = .symLast d)) ∧ ∃ f, t.queue = s.queue ++ [f])
    ∨ ((IsCommand i .stop 2 ∨ IsCommand i .softReset 3) ∧ t.queue = [])

theorem queueMoves_runCommand {s : State} (hclean : IdleClean s) {i : Instr} {w : Word}
    (hi : IsCommand i (decodeCommand w) w) : QueueMoves i s (runCommand (commandOf w) s) := by
  rcases runCommand_queue hclean (commandOf w) with hkept | ⟨hstop | hreset, hempty⟩
  · exact .inl hkept
  · obtain rfl := eq_two_of_commandOf_stop hstop
    exact .inr (.inr (.inr ⟨.inl hi, hempty⟩))
  · obtain rfl := eq_three_of_commandOf_softReset hreset
    exact .inr (.inr (.inr ⟨.inr hi, hempty⟩))

theorem queueMoves_takeBeat {s : State} (hstream : StreamInv s) {i : Instr} {last : Bool} {d : Soft}
    (hi : i = if last then .symLast d else .sym d) : QueueMoves i s (takeBeat last d s) := by
  have hbeat : (∃ d, i = .sym d) ∨ (∃ d, i = .symLast d) := by
    cases last
    · exact .inl ⟨d, hi⟩
    · exact .inr ⟨d, hi⟩
  exact (takeBeat_queue hstream last d).imp_right fun hpushed => .inr (.inl ⟨hbeat, hpushed⟩)

/-- The invariant keeps the deframer's rows from acting alone, so only a beat queues a frame. -/
theorem Effect.queueMoves {s t : State} {i : Instr} (he : Effect s i t) (h : MachineInv s) : QueueMoves i s t := by
  cases he with
  | command w hi => exact queueMoves_runCommand h.idleClean hi
  | reservedStart hidle => exact .inl (startCommand_queue h.idleClean hidle _)
  | raised i b => exact .inl (raiseStatus_queue b s)
  | stored off v r hr ha hidle => exact .inl rfl
  | answered i a last => exact .inl rfl
  | viterbi z a hcode => exact .inl rfl
  | beat last d hi => exact queueMoves_takeBeat h.stream hi
  | delivered b hb => exact (deliverBeat_queue b s).imp_right fun htail => .inl ⟨rfl, htail⟩
  | attempted hw => simp [h.not_windowComplete] at hw
  | checked hw => simp [h.not_windowComplete] at hw
  | collected hf => simp [h.not_frameComplete] at hf
  | emitted hf => simp [h.not_frameComplete] at hf

/-- Settles O59: each effect of an instruction makes one of the four moves. -/
theorem queueIsFifo : Obligations.QueueIsFifo := fun _ _ _ hinv hexec => (exec_effect hexec).queueMoves hinv

end Sys2Proof.Machine
end

section
/-! SUPPORT. Words of the encodings read as instructions (30_encoding.md R82 to R87, R91), and the rows that change nothing where
no rule selects them (log 7, 8). -/

namespace Sys2Proof

/-- Settles O3, by the decoder's lemma for each port's format. -/
theorem decodeEncodeRoundTrip : Obligations.DecodeEncodeRoundTrip := fun _ => decode_encode

/-! ## Command words -/

theorem decodeCommand_eq_cmdIllegal_iff (w : Word) : decodeCommand w = .cmdIllegal w ↔ 7 ≤ w.toNat := by
  rw [← commandOf_illegal_iff, decodeCommand]
  cases commandOf w <;> simp

/-- The only command with an operand is the illegal one, and its word is one that no command has. -/
theorem wf_decodeCommand (w : Word) : wf (decodeCommand w) = true := by
  cases hc : commandOf w with
  | illegal =>
    have hword : wfIllegalWord w = true := decide_eq_true ((commandOf_illegal_iff w).mp hc)
    rw [decodeCommand_illegal hword]
    exact hword
  | _ => simp only [decodeCommand, hc, wf]

/-- Settles O5: four bytes decode to the command of their word, which is illegal from 7 on and always well-formed. -/
theorem commandWordsMatchWhole : Obligations.CommandWordsMatchWhole := by
  intro w
  have hdecode : decode .cmd (leBytes 4 w.toNat) = .ok (decodeCommand w) := decodeCmd_leBytes w
  rw [hdecode]
  refine ⟨?_, ⟨_, rfl, wf_decodeCommand w⟩, fun j hj => ?_⟩
  · rw [Except.ok.injEq, decodeCommand_eq_cmdIllegal_iff, illegal_word_iff]
  · cases hj
    exact wf_decodeCommand w

/-! ## Words of the opcode table -/

/-- A table word laid out as an instruction's own offer reads as that instruction. -/
theorem decodeTableWord_of_offerOf {nbits w : Nat} {i : Instr} (hi : wf i = true) (ho : tableOffer nbits w = offerOf i) :
    decodeTableWord nbits w = some i := by
  have hdecode : decode (offerOf i).port (offerOf i).bytes = .ok i := decode_encode hi
  rw [decodeTableWord, ho, hdecode]

/-- Settles O4: each word is, byte for byte, the encoding of its instruction. -/
theorem specWordsDecode : Obligations.SpecWordsDecode :=
  ⟨decodeTableWord_of_offerOf rfl rfl, decodeTableWord_of_offerOf rfl rfl, decodeTableWord_of_offerOf rfl rfl,
    decodeTableWord_of_offerOf rfl rfl, decode_encode (i := .sym 100) rfl, decode_encode (i := .symLast 0x9B) rfl,
    decodeTableWord_of_offerOf rfl rfl, decodeTableWord_of_offerOf rfl rfl⟩

end Sys2Proof

namespace Sys2Proof.Machine

/-! ## Rows that are not selected -/

theorem windowComplete_iff (ph : Phase) (s : State) :
    windowComplete ph s = true
      ↔ s.run = .running ∧ s.deframer.phase = ph ∧ s.avail = s.deframer.pos + markerLen s.cfg :=
  decide_eq_true_iff

theorem frameComplete_iff (s : State) :
    frameComplete s = true
      ↔ s.run = .running ∧ s.deframer.phase = .collect ∧ s.avail = s.deframer.pos + framePeriod s.cfg :=
  decide_eq_true_iff

section Unselected

variable {s : State}

theorem exec_acqEval_unselected (h : ¬ windowComplete .search s = true) : exec .acqEval s = .next s :=
  congrArg _ (if_neg h)

theorem exec_checkEval_unselected (h : ¬ windowComplete .check s = true) : exec .checkEval s = .next s :=
  congrArg _ (if_neg h)

theorem exec_collect_unselected (h : ¬ frameComplete s = true) : exec .collect s = .next s :=
  congrArg _ (if_neg h)

theorem exec_frameEmit_unselected (h : ¬ frameComplete s = true) : exec .frameEmit s = .next s :=
  congrArg _ (if_neg h)

theorem exec_vitDecode_illegalCode (z : List Soft) (h : ¬ codeLegal (vitCode s.cfg) = true) : exec (.vitDecode z) s = .next s :=
  congrArg _ (if_neg h)

theorem rsDecodeOp_illegalGeometry (profile : Bool) {frame : List Byte} (h : ¬ rsGeometryLegal s.cfg frame.length = true) :
    rsDecodeOp profile frame s = s :=
  if_neg h

end Unselected

/-- Settles O53: every clause denies the guard of its row, and the row then keeps the state. -/
theorem unselectedOperationsChangeNothing : Obligations.UnselectedOperationsChangeNothing := by
  intro s
  refine ⟨fun hbit => ?_, fun hbit => ?_, fun hbit => ?_, fun z hcode => ?_, fun frame hgeometry => ?_⟩
  · exact exec_acqEval_unselected (mt (windowComplete_iff .search s).mp hbit)
  · exact exec_checkEval_unselected (mt (windowComplete_iff .check s).mp hbit)
  · have hframe := mt (frameComplete_iff s).mp hbit
    exact ⟨exec_collect_unselected hframe, exec_frameEmit_unselected hframe⟩
  · exact exec_vitDecode_illegalCode z (Bool.eq_false_iff.mp hcode)
  · have hillegal := mt (rsGeometryLegal_iff s.cfg frame.length).mp hgeometry
    exact ⟨congrArg _ (rsDecodeOp_illegalGeometry false hillegal), congrArg _ (rsDecodeOp_illegalGeometry true hillegal)⟩

end Sys2Proof.Machine
end

section
/-! SUPPORT. The stream ports: what an input beat does in each run state, what an output beat delivers, and what every run from
reset keeps (40_streams.md). -/

namespace Sys2Proof.Machine

/-! ## Port signals (40_streams.md R111, R117) -/

/-- Settles O20: the three signals, with an empty queue read as a queue of length 0. -/
theorem portSignals : Obligations.PortSignals := by
  intro s
  rw [inReady_iff, outValid_iff, outClosed_iff, List.length_pos_iff, List.length_eq_zero_iff]
  exact ⟨Iff.rfl, Iff.rfl, Iff.rfl⟩

/-! ## Input beats by run state (40_streams.md R111 to R116) -/

theorem inReady_of_idle {s : State} (hidle : s.run = .idle) : inReady s = false := by
  rw [inReady, hidle]

theorem takeBeat_of_not_running {s : State} (hrun : s.run ≠ .running) (last : Bool) (v : Soft) : takeBeat last v s = s := by
  rcases takeBeat_cases last v s with ⟨-, h⟩ | ⟨-, h⟩ | ⟨hrunning, -, -⟩
  · exact h
  · exact h
  · exact absurd hrunning hrun

theorem takeBeat_of_running {s : State} (hrun : s.run = .running) (hroom : s.queue.length < Config.outCap) (last : Bool)
    (v : Soft) : takeBeat last v s = if last then endOfStream (acceptSoft v s) else acceptSoft v s := by
  have hready : inReady s = true := (inReady_iff s).mpr (.inl ⟨hrun, hroom⟩)
  rcases takeBeat_cases last v s with ⟨hheld, -⟩ | ⟨hclosed, -⟩ | ⟨-, -, h⟩
  · simp [hready] at hheld
  · simp [hrun] at hclosed
  · exact h

theorem exec_sym_of_not_running {s : State} (hrun : s.run ≠ .running) (d : Soft) : exec (.sym d) s = .next s :=
  congrArg _ (takeBeat_of_not_running hrun false d)

theorem exec_symLast_of_not_running {s : State} (hrun : s.run ≠ .running) (d : Soft) : exec (.symLast d) s = .next s :=
  congrArg _ (takeBeat_of_not_running hrun true d)

theorem exec_sym_of_running {s : State} (hrun : s.run = .running) (hroom : s.queue.length < Config.outCap) (d : Soft) :
    exec (.sym d) s = .next (acceptSoft d s) :=
  congrArg _ (takeBeat_of_running hrun hroom false d)

theorem exec_symLast_of_running {s : State} (hrun : s.run = .running) (hroom : s.queue.length < Config.outCap) (d : Soft) :
    exec (.symLast d) s = .next (endOfStream (acceptSoft d s)) :=
  congrArg _ (takeBeat_of_running hrun hroom true d)

/-- Settles O22: both events accept the value, and `SYM_LAST` ends the stream after it. -/
theorem symLastIsSymThenEnd : Obligations.SymLastIsSymThenEnd := fun s d hrun hroom =>
  ⟨acceptSoft d s, exec_sym_of_running hrun hroom d, exec_symLast_of_running hrun hroom d⟩

/-- Settles O23: outside `RUNNING` a beat is discarded or held, as `in_ready` says. -/
theorem closedRunDiscardsBeats : Obligations.ClosedRunDiscardsBeats := by
  intro s d
  refine ⟨fun hclosed => ?_, fun hidle => ?_⟩
  · have hrun : s.run ≠ .running := by rcases hclosed with h | h <;> simp [h]
    exact ⟨(inReady_iff s).mpr (.inr hclosed), exec_sym_of_not_running hrun d, exec_symLast_of_not_running hrun d⟩
  · have hrun : s.run ≠ .running := by simp [hidle]
    exact ⟨inReady_of_idle hidle, exec_sym_of_not_running hrun d, exec_symLast_of_not_running hrun d⟩

/-! ## Bits that an accepted value makes available (40_streams.md R114) -/

/-- In BPSK every value is a bit. -/
theorem newAvail_succ_of_bpsk {c : CfgRegs} (hmod : isQpsk c = false) (nv : Nat) : newAvail c (nv + 1) = newAvail c nv + 1 := by
  simp [newAvail, hmod]

/-- The first component of a QPSK symbol completes no bit. -/
theorem newAvail_succ_of_qpsk_even {c : CfgRegs} (hmod : isQpsk c = true) {nv : Nat} (heven : nv % 2 = 0) :
    newAvail c (nv + 1) = newAvail c nv := by
  simp only [newAvail, hmod, if_true]
  omega

/-- The second component of a QPSK symbol completes both of its bits. -/
theorem newAvail_succ_of_qpsk_odd {c : CfgRegs} (hmod : isQpsk c = true) {nv : Nat} (hodd : nv % 2 = 1) :
    newAvail c (nv + 1) = newAvail c nv + 2 := by
  simp only [newAvail, hmod, if_true]
  omega

theorem availBits_one (s : State) : availBits 1 s = deframerBit s.avail { s with avail := s.avail + 1 } := rfl

theorem availBit_avail (s : State) : (availBit s).avail = s.avail + 1 := (bitWrites_availBit s).avail_eq

/-- The deframer sees the first bit, then the next: a bit step leaves `AVAIL` to the loop. -/
theorem availBits_two (s : State) :
    availBits 2 s
      = deframerBit (s.avail + 1)
          { deframerBit s.avail { s with avail := s.avail + 1 } with avail := s.avail + 2 } := by
  change deframerBit (availBit s).avail { availBit s with avail := (availBit s).avail + 1 } = _
  rw [availBit_avail]
  rfl

theorem acceptSoft_of_newAvail_succ {s : State} {count : Nat} (havail : s.avail = newAvail s.cfg s.nv)
    (hnew : newAvail s.cfg (s.nv + 1) = newAvail s.cfg s.nv + count) (v : Soft) :
    acceptSoft v s = availBits count (withSoft v s) := by
  rw [acceptSoft_eq, hnew, havail, Nat.add_sub_cancel_left]

/-- Settles O21: `SYM` accepts the value, which completes one bit, no bit or two bits. -/
theorem symMakesBitsAvailable : Obligations.SymMakesBitsAvailable := by
  intro s d hrun hroom havail a
  rw [exec_sym_of_running hrun hroom]
  refine ⟨fun hbpsk => ?_, fun hqpsk heven => ?_, fun hqpsk hodd => ?_⟩
  · rw [acceptSoft_of_newAvail_succ havail (newAvail_succ_of_bpsk hbpsk s.nv), availBits_one]
    rfl
  · rw [acceptSoft_of_newAvail_succ (count := 0) havail (newAvail_succ_of_qpsk_even hqpsk heven), availBits_zero]
    rfl
  · rw [acceptSoft_of_newAvail_succ havail (newAvail_succ_of_qpsk_odd hqpsk hodd), availBits_two]
    rfl

/-! ## Output beats (40_streams.md R117, R118) -/

theorem outBeat_of_queue_cons {s : State} {f : Frame} {rest : List Frame} (hq : s.queue = f :: rest) :
    outBeat s = some (beatOf f s.txPos) := by
  rw [outBeat, hq]

theorem exec_pop_of_outBeat {s : State} {b : OutBeat} (hb : outBeat s = some b) :
    exec .pop s = .next (withAnswer (.beat b) (deliverBeat b s)) := by
  change execPop s = _
  rw [execPop, hb]

/-- A byte before the frame's last carries neither `EOF` nor the tag. -/
theorem beatOf_of_not_last {f : Frame} {txPos : Nat} (hmore : txPos + 1 < f.bytes.length) :
    beatOf f txPos = { data := f.bytes[txPos], sof := decide (txPos = 0), eof := false, tag := 0 } := by
  have hlt : txPos < f.bytes.length := by omega
  simp [beatOf, hmore.ne, hlt]

theorem beatOf_of_last {f : Frame} {txPos : Nat} (hlast : txPos + 1 = f.bytes.length) :
    beatOf f txPos = { data := f.bytes[txPos], sof := decide (txPos = 0), eof := true, tag := f.tag } := by
  have hlt : txPos < f.bytes.length := by omega
  simp [beatOf, hlast, hlt]

theorem deliverBeat_of_not_eof {b : OutBeat} (heof : b.eof = false) (s : State) :
    deliverBeat b s = { s with txPos := s.txPos + 1 } := by
  simp [deliverBeat, heof]

theorem deliverBeat_of_eof {b : OutBeat} (heof : b.eof = true) (s : State) :
    deliverBeat b s = { s with queue := s.queue.tail, txPos := 0 } := by
  simp [deliverBeat, heof]

/-- Settles O24: the beat presented for the head frame is the one delivered, and `EOF` decides whether the frame leaves. -/
theorem popDeliversHeadByte : Obligations.PopDeliversHeadByte := by
  intro s f rest hq
  rw [exec_pop_of_outBeat (outBeat_of_queue_cons hq)]
  refine ⟨fun hmore => ?_, fun hlast => ?_⟩
  · rw [beatOf_of_not_last hmore, deliverBeat_of_not_eof rfl]
    rfl
  · rw [beatOf_of_last hlast, deliverBeat_of_eof rfl, hq]
    rfl

/-! ## Runs (40_streams.md R120; 42_deframer.md R169) -/

/-- What every step keeps holds of every state a run reaches. -/
theorem Reaches.invariant {motive : State → Prop} (hstep : ∀ t u, motive t → step t = .next u → motive u) {s t : State}
    (hreach : Reaches s t) (hs : motive s) : motive t := by
  induction hreach with
  | refl => exact hs
  | tail _ hlast ih => exact hstep _ _ ih hlast

theorem machineInv_of_reaches_reset {os : List Offer} {t : State} (hreach : Reaches { State.reset with offers := os } t) :
    MachineInv t :=
  hreach.invariant stepKeepsMachineInvariant (machineInvariantAtReset os)

/-- Settles O56: the three properties are parts of the machine's invariant, which holds along every run from reset. -/
theorem everyRunStaysSafe : Obligations.EveryRunStaysSafe := by
  intro os t hreach
  have hinv : MachineInv t := machineInv_of_reaches_reset hreach
  exact ⟨hinv.queue.le_cap, hinv.deframer, hinv.queue.frame_len⟩

end Sys2Proof.Machine
end

section
/-! SUPPORT. The correlator: corrected values under the hypotheses, the two scores, and the hypothesis that `CORRELATE` answers
(41_correlator.md). -/

namespace Sys2Proof.Machine

/-! ## What each row answers (R132 to R137) -/

section Rows
variable (s : State) (n : Nat)

theorem exec_hypBpsk (h : BitVec 1) :
    exec (.hypBpsk n h) s = .next { s with answer := .soft (correctedBpsk s.soft (h.getLsbD 0) n) } := rfl

theorem exec_hypQpsk (h : BitVec 3) : exec (.hypQpsk n h) s = .next { s with answer := .soft (correctedQpsk s.soft h n) } := rfl

theorem exec_scoreHard (h : BitVec 3) :
    exec (.scoreHard n h) s = .next { s with answer := .score (hardScore s.cfg s.soft h n) } := rfl

theorem exec_scoreSoft (h : BitVec 3) :
    exec (.scoreSoft n h) s = .next { s with answer := .score (softScore s.cfg s.soft h n) } := rfl

theorem exec_correlate :
    exec (.correlate n) s
      = .next { s with answer := .best (bestHypothesis s.cfg s.soft s.deframer.hyp n) (bestScore s.cfg s.soft n) } := rfl

end Rows

/-! ## Corrected values (R131 to R134) -/

theorem softAt_of_lt {v : List Soft} {j : Nat} (hj : j < v.length) : softAt v j = v[j] := by
  simp [softAt, hj]

theorem getLsbD_zero_xor_one (h : BitVec 3) : (h ^^^ 1).getLsbD 0 = !h.getLsbD 0 := by simp

/-- `INV` is the last step of `T_h`, so setting or clearing it complements both components. -/
theorem transform_xor_one (h : BitVec 3) (iq : Soft × Soft) : transform (h ^^^ 1) iq = negIQ (transform h iq) := by
  have hswap : (h ^^^ 1).getLsbD 2 = h.getLsbD 2 := by simp
  have hrot : (h ^^^ 1).getLsbD 1 = h.getLsbD 1 := by simp
  simp only [transform, hswap, hrot, getLsbD_zero_xor_one]
  cases h.getLsbD 0 <;> simp [negIQ]

/-- ROT and INV both complement Q, which is then as received. -/
theorem transform_three (iq : Soft × Soft) : transform 3 iq = (iq.2, inv8 iq.1) := Prod.ext (inv8_inv8 iq.2) rfl

/-- After SWAP it is I that ROT and INV both complement. -/
theorem transform_seven (iq : Soft × Soft) : transform 7 iq = (iq.1, inv8 iq.2) := Prod.ext (inv8_inv8 iq.1) rfl

theorem correctedQpsk_xor_one (v : List Soft) (h : BitVec 3) (n : Nat) :
    correctedQpsk v (h ^^^ 1) n = inv8 (correctedQpsk v h n) := by
  rw [correctedQpsk, correctedQpsk, transform_xor_one]
  split <;> rfl

theorem correctedBpsk_not (v : List Soft) (inv : Bool) (n : Nat) : correctedBpsk v (!inv) n = inv8 (correctedBpsk v inv n) := by
  cases inv <;> simp [correctedBpsk, invIf]

theorem corrected_xor_one (c : CfgRegs) (v : List Soft) (h : BitVec 3) (n : Nat) :
    corrected c v (h ^^^ 1) n = inv8 (corrected c v h n) := by
  rw [corrected, corrected, getLsbD_zero_xor_one, correctedQpsk_xor_one, correctedBpsk_not]
  split <;> rfl

/-- The corrected value is what the row answers that `MODE.MOD` selects. -/
theorem correctedAs_corrected (s : State) (h : BitVec 3) (n : Nat) : CorrectedAs s h n (corrected s.cfg s.soft h n) := by
  rw [CorrectedAs, corrected, isQpsk, bitOf]
  split
  · exact exec_hypQpsk s n h
  · rw [exec_hypBpsk]
    simp

/-- Settles O27: the primitives by their laws on a soft value, the corrected values by `corrected_xor_one`. -/
theorem complementHypothesisFlipsBits : Obligations.ComplementHypothesisFlipsBits := by
  refine ⟨fun x => ⟨hard_inv8 x, inv8_inv8 x, inv8_toInt x, ?_⟩, fun c v h n => ⟨corrected_xor_one c v h n, ?_⟩⟩
  · rw [hard_eq_decide, decide_eq_true_iff]
  · rw [corrected_xor_one, hard_inv8]

/-- Settles O25: an accepted bit is read as it stands, and hypothesis 1 complements it. -/
theorem hypBpskResult : Obligations.HypBpskResult := by
  intro s n h
  refine ⟨_, exec_hypBpsk s n h, fun hn => ?_⟩
  rw [correctedBpsk, softAt_of_lt hn]
  obtain rfl | rfl : h = 0 ∨ h = 1 := by revert h; decide
  · rfl
  · rfl

/-- Settles O26: the steps of `T_h` composed for each index; only indices 3 and 7 complement a component twice. -/
theorem hypQpskResult : Obligations.HypQpskResult := by
  intro s n h
  refine ⟨_, exec_hypQpsk s n h, fun hn => ?_⟩
  rw [correctedQpsk, softAt_of_lt hn, softAt_of_lt (by omega)]
  obtain rfl | rfl | rfl | rfl | rfl | rfl | rfl | rfl :
      h = 0 ∨ h = 1 ∨ h = 2 ∨ h = 3 ∨ h = 4 ∨ h = 5 ∨ h = 6 ∨ h = 7 := by revert h; decide
  · rfl
  · rfl
  · rfl
  · rw [transform_three]; rfl
  · rfl
  · rfl
  · rfl
  · rw [transform_seven]; rfl

/-! ## The marker (10_state.md R27, R28) -/

theorem markerLen_eq_mod (c : CfgRegs) : markerLen c = c.syncLen.toNat % 128 := by
  simp [markerLen, field]

theorem markerBit_eq_markerBitOf (c : CfgRegs) (i : Nat) : markerBit c i = markerBitOf c i := by
  rw [markerBit, markerBitOf, syncWord, markerLen_eq_mod]

/-! ## Scores (R135, R136) -/

/-- Two scores over one window whose terms have one sum at every bit. -/
theorem sum_map_add_sum_map_of_add_eq {f g : Nat → Int} {k : Int} (h : ∀ i, f i + g i = k) (window : List Nat) :
    (window.map f).sum + (window.map g).sum = window.length * k := by
  rw [← List.sum_map_add]
  simp [h]

section Scores
variable (c : CfgRegs) (v : List Soft) (h : BitVec 3) (n : Nat)

theorem hardScore_eq_length_filter :
    hardScore c v h n
      = ((List.range (markerLen c)).filter fun i => hard (corrected c v h (n + i)) == markerBit c i).length := by
  rw [hardScore, List.sum_map_ite]
  simp [Bool.beq_eq_decide_eq]

/-- A bit agrees with the marker under exactly one of `h` and `h xor 1`. -/
theorem hardScore_add_xor_one : hardScore c v h n + hardScore c v (h ^^^ 1) n = markerLen c := by
  rw [hardScore, hardScore, sum_map_add_sum_map_of_add_eq (k := 1), List.length_range, mul_one]
  intro i
  rw [corrected_xor_one, hard_inv8]
  cases hard (corrected c v h (n + i)) <;> cases markerBit c i <;> rfl

theorem invIf_not_toInt (b : Bool) (x : Soft) : (invIf (!b) x).toInt = if b then x.toInt else - x.toInt - 1 := by
  cases b
  · exact inv8_toInt x
  · rfl

/-- A value and its complement sum to -1, whichever of them the marker bit asks for. -/
theorem softScore_add_xor_one : softScore c v h n + softScore c v (h ^^^ 1) n = - markerLen c := by
  rw [softScore, softScore, sum_map_add_sum_map_of_add_eq (k := -1), List.length_range, mul_neg_one]
  intro i
  rw [corrected_xor_one, invIf_not_toInt, invIf_not_toInt, inv8_toInt]
  split <;> omega

theorem softScore_bounds : -128 * (markerLen c : Int) ≤ softScore c v h n ∧ softScore c v h n ≤ 127 * (markerLen c : Int) := by
  rw [softScore]
  constructor
  · refine le_trans (le_of_eq ?_) (List.card_nsmul_le_sum _ (-128) (List.forall_mem_map.mpr fun _ _ => BitVec.le_toInt _))
    simp [mul_comm]
  · refine (List.sum_le_card_nsmul _ 127
      (List.forall_mem_map.mpr fun _ _ => Int.le_of_lt_add_one BitVec.toInt_lt)).trans (le_of_eq ?_)
    simp [mul_comm]

end Scores

/-- Settles O28: the score as a count over the window, and its complement law. -/
theorem hardScoreResult : Obligations.HardScoreResult := by
  intro s n h
  refine ⟨correctedAs_corrected s h, _, rfl, ?_⟩
  simp only [← hard_eq_decide, ← markerBit_eq_markerBitOf, ← markerLen_eq_mod]
  refine ⟨?_, ?_, ?_⟩
  · rw [exec_scoreHard, hardScore_eq_length_filter]
  · simpa using List.length_filter_le _ (List.range (markerLen s.cfg))
  · rw [exec_scoreHard, ← hardScore_eq_length_filter, ← hardScore_add_xor_one s.cfg s.soft h n, add_sub_cancel_left]

/-- Settles O29: the score as a sum over the window, its range, and its complement law. -/
theorem softScoreResult : Obligations.SoftScoreResult := by
  intro s n h
  have hsum : softScore s.cfg s.soft h n
      = ((List.range (s.cfg.syncLen.toNat % 128)).map fun i =>
          if markerBitOf s.cfg i then (corrected s.cfg s.soft h (n + i)).toInt
          else - (corrected s.cfg s.soft h (n + i)).toInt - 1).sum := by
    simp only [softScore, invIf_not_toInt, markerLen_eq_mod, markerBit_eq_markerBitOf]
  obtain ⟨hlow, hhigh⟩ := softScore_bounds s.cfg s.soft h n
  refine ⟨correctedAs_corrected s h, _, hsum, exec_scoreSoft s n h, hlow, hhigh, ?_⟩
  rw [exec_scoreSoft, ← softScore_add_xor_one s.cfg s.soft h n, add_sub_cancel_left]

/-! ## The best hypothesis (R137) -/

theorem hypotheses_ne_nil (c : CfgRegs) : hypotheses c ≠ [] := by
  rw [hypotheses]
  split <;> simp

theorem hypotheses_ascending (c : CfgRegs) : (hypotheses c).Pairwise fun g h => g.toNat < h.toNat := by
  rw [hypotheses]
  split <;> decide

theorem max?_eq_some_maxScore {l : List Int} (hl : l ≠ []) : l.max? = some (maxScore l) := by
  cases l with
  | nil => exact absurd rfl hl
  | cons x xs => rfl

/-- What a search of an ascending list finds is the smallest that satisfies the condition. -/
theorem find?_le_of_ascending {l : List (BitVec 3)} (hl : l.Pairwise fun g h => g.toNat < h.toNat) {p : BitVec 3 → Bool}
    {h g : BitVec 3} (hfind : l.find? p = some h) (hg : g ∈ l) (hp : p g = true) : h.toNat ≤ g.toNat := by
  obtain ⟨-, before, after, rfl, hbefore⟩ := List.find?_eq_some_iff_append.mp hfind
  obtain hg | rfl | hg : g ∈ before ∨ g = h ∨ g ∈ after := by simpa using hg
  · exact absurd hp (by simpa using hbefore g hg)
  · exact le_rfl
  · obtain ⟨-, hafter, -⟩ := List.pairwise_append.mp hl
    exact (List.rel_of_pairwise_cons hafter hg).le

section Best
variable (c : CfgRegs) (v : List Soft) (held : BitVec 3) (n : Nat)

theorem bestScore_spec :
    (∃ h ∈ hypotheses c, score c v h n = bestScore c v n) ∧ ∀ g ∈ hypotheses c, score c v g n ≤ bestScore c v n := by
  have hmax := List.max?_eq_some_iff.mp (max?_eq_some_maxScore (l := (hypotheses c).map fun h => score c v h n)
    (by simpa using hypotheses_ne_nil c))
  simpa [bestScore] using hmax

/-- The held hypothesis answers where it attains the best score, and the first that attains it answers otherwise. -/
theorem bestHypothesis_cases :
    (held ∈ hypotheses c ∧ score c v held n = bestScore c v n ∧ bestHypothesis c v held n = held)
      ∨ (¬ (held ∈ hypotheses c ∧ score c v held n = bestScore c v n)
        ∧ (hypotheses c).find? (fun h => decide (score c v h n = bestScore c v n)) = some (bestHypothesis c v held n)) := by
  by_cases hheld : held ∈ hypotheses c ∧ score c v held n = bestScore c v n
  · exact .inl ⟨hheld.1, hheld.2, if_pos hheld⟩
  · obtain ⟨h, hmem, hbest⟩ := (bestScore_spec c v n).1
    have hsome : ((hypotheses c).find? fun h => decide (score c v h n = bestScore c v n)).isSome := by
      simpa using ⟨h, hmem, hbest⟩
    obtain ⟨h', hfind⟩ := Option.isSome_iff_exists.mp hsome
    refine .inr ⟨hheld, ?_⟩
    rw [bestHypothesis, if_neg hheld, hfind, Option.getD_some]

theorem bestHypothesis_attains :
    bestHypothesis c v held n ∈ hypotheses c ∧ score c v (bestHypothesis c v held n) n = bestScore c v n := by
  obtain ⟨hmem, hbest, heq⟩ | ⟨-, hfind⟩ := bestHypothesis_cases c v held n
  · rw [heq]
    exact ⟨hmem, hbest⟩
  · exact ⟨List.mem_of_find?_eq_some hfind, by simpa using List.find?_some hfind⟩

end Best

/-- Settles O30: the answered hypothesis attains the best score, and the two cases of its choice give the two tie rules. -/
theorem correlatePrefersHeldHypothesis : Obligations.CorrelatePrefersHeldHypothesis := by
  intro s n
  refine ⟨fun g => ?_, _, _, exec_correlate s n, (bestHypothesis_attains _ _ _ n).1, (bestHypothesis_attains _ _ _ n).2,
    (bestScore_spec _ _ n).2, ?_, ?_, rfl⟩
  · rw [score, corrSoft, bitOf]
    split
    · exact exec_scoreSoft s n g
    · exact exec_scoreHard s n g
  · intro hmem hbest
    obtain ⟨-, -, heq⟩ | ⟨hnot, -⟩ := bestHypothesis_cases s.cfg s.soft s.deframer.hyp n
    · exact heq
    · exact absurd ⟨hmem, hbest⟩ hnot
  · intro hne g hg hbest
    obtain ⟨-, -, heq⟩ | ⟨-, hfind⟩ := bestHypothesis_cases s.cfg s.soft s.deframer.hyp n
    · exact absurd heq hne
    · exact find?_le_of_ascending (hypotheses_ascending s.cfg) hfind hg (by simpa using hbest)

end Sys2Proof.Machine
end

section
/-! SUPPORT. The deframer's rows at the bit that selects them, the outcomes of an acquisition attempt and of a check, and what
replaces the held hypothesis (42_deframer.md R152 to R160). -/

namespace Sys2Proof.Machine

/-! ## The rows at the bit that selects them (42_deframer.md R152) -/

section Selected

variable {s : State}

theorem exec_acqEval_selected (h : windowComplete .search s = true) : exec .acqEval s = .next (acqEval s) :=
  congrArg _ (if_pos h)

theorem exec_checkEval_selected (h : windowComplete .check s = true) : exec .checkEval s = .next (checkEval s) :=
  congrArg _ (if_pos h)

theorem exec_collect_selected (h : frameComplete s = true) : exec .collect s = .next (collectEnd s) :=
  congrArg _ (if_pos h)

theorem exec_frameEmit_selected (h : frameComplete s = true) :
    exec .frameEmit s = .next (emitFrame s.deframer.pos s.deframer.hyp s.deframer.flag s.deframer.lock s) :=
  congrArg _ (if_pos h)

/-- In `RUNNING`, at the newest bit `n`, a row's own guard is the test of the bit step. -/
theorem windowComplete_eq_windowEnds {n : Nat} {ph : Phase} (hrun : s.run = .running) (havail : s.avail = n + 1)
    (hphase : s.deframer.phase = ph) : windowComplete ph s = windowEnds s n := by
  simp only [windowComplete, windowEnds, hrun, hphase, havail, true_and]

theorem frameComplete_eq_frameEnds {n : Nat} (hrun : s.run = .running) (havail : s.avail = n + 1)
    (hphase : s.deframer.phase = .collect) : frameComplete s = frameEnds s n := by
  simp only [frameComplete, frameEnds, hrun, hphase, havail, true_and]

theorem deframerBit_of_search (n : Nat) (hphase : s.deframer.phase = .search) :
    deframerBit n s = if windowEnds s n then acqEval s else s := by
  rw [deframerBit, hphase]

theorem deframerBit_of_collect (n : Nat) (hphase : s.deframer.phase = .collect) :
    deframerBit n s = if frameEnds s n then collectEnd s else s := by
  rw [deframerBit, hphase]

theorem deframerBit_of_check (n : Nat) (hphase : s.deframer.phase = .check) :
    deframerBit n s = if windowEnds s n then checkEval s else s := by
  rw [deframerBit, hphase]

/-- Away from the bit at which the deframer is due, the bit step does nothing. -/
theorem deframerBit_of_ne_dueAt {n : Nat} (hn : n + 1 ≠ dueAt s.cfg s.deframer) : deframerBit n s = s := by
  rcases deframerBit_cases n s with ⟨hphase, hend, -⟩ | ⟨hphase, hend, -⟩ | ⟨hphase, hend, -⟩ | ⟨-, h⟩
  · exact absurd (hend.trans (dueAt_window (by simp [hphase])).symm) hn
  · exact absurd (hend.trans (dueAt_collect hphase).symm) hn
  · exact absurd (hend.trans (dueAt_window (by simp [hphase])).symm) hn
  · exact h

end Selected

/-- Settles O31: in its phase a row and the bit step have one guard and one action. -/
theorem deframerRowsAreTheBitStep : Obligations.DeframerRowsAreTheBitStep := by
  intro s n hrun havail
  refine ⟨fun hsearch => ?_, fun hcollect => ?_, fun hcheck => ?_, deframerBit_of_ne_dueAt⟩
  · rw [deframerBit_of_search n hsearch, ← windowComplete_eq_windowEnds hrun havail hsearch]
    rfl
  · rw [deframerBit_of_collect n hcollect, ← frameComplete_eq_frameEnds hrun havail hcollect]
    rfl
  · rw [deframerBit_of_check n hcheck, ← windowComplete_eq_windowEnds hrun havail hcheck]
    rfl

/-- Settles O33: at the bit that completes the frame, `COLLECT` is `FRAME_EMIT` and then its own write of the deframer. -/
theorem collectEmitsThenExpectsMarker : Obligations.CollectEmitsThenExpectsMarker := by
  intro s hrun hphase hend
  have hframe : frameComplete s = true := (frameComplete_iff s).mpr ⟨hrun, hphase, hend⟩
  exact ⟨_, exec_frameEmit_selected hframe, by rw [exec_collect_selected hframe, collectEnd_eq]⟩

/-! ## The outcomes of an acquisition attempt (42_deframer.md R153) -/

section Outcomes

variable {s : State}

theorem acqEval_of_threshold_le (hbest : acqThreshold s.cfg ≤ bestScore s.cfg s.soft s.deframer.pos) :
    acqEval s
      = { setLastScore (bestScore s.cfg s.soft s.deframer.pos) s with
          deframer :=
            { lock := .syncing, phase := .collect
              hyp := bestHypothesis s.cfg s.soft s.deframer.hyp s.deframer.pos
              good := 0, miss := 0, flag := false, pos := s.deframer.pos } } := by
  obtain ⟨-, heq⟩ | ⟨hlt, -⟩ := acqEval_cases s
  · exact heq
  · exact absurd hbest (Int.not_le.mpr hlt)

theorem acqEval_of_lt_threshold (hbest : bestScore s.cfg s.soft s.deframer.pos < acqThreshold s.cfg) :
    acqEval s
      = { setLastScore (bestScore s.cfg s.soft s.deframer.pos) s with
          deframer := { s.deframer with pos := s.deframer.pos + 1 } } := by
  obtain ⟨hle, -⟩ | ⟨-, heq⟩ := acqEval_cases s
  · exact absurd hle (Int.not_le.mpr hbest)
  · exact heq

/-! ## The outcomes of a check (42_deframer.md R157 to R160) -/

theorem checkEval_of_syncing {ok : Bool} (hlock : s.deframer.lock = .syncing)
    (hok : decide (chkThreshold s.cfg ≤ score s.cfg s.soft s.deframer.hyp s.deframer.pos) = ok) :
    checkEval s = checkSyncing ok (setLastScore (score s.cfg s.soft s.deframer.hyp s.deframer.pos) s) := by
  rw [checkEval, hlock, ← hok]

theorem checkEval_of_synced {ok : Bool} (hlock : s.deframer.lock = .synced)
    (hok : decide (chkThreshold s.cfg ≤ score s.cfg s.soft s.deframer.hyp s.deframer.pos) = ok) :
    checkEval s = checkSynced ok (setLastScore (score s.cfg s.soft s.deframer.hyp s.deframer.pos) s) := by
  rw [checkEval, hlock, ← hok]

/-- Enough good markers in a row: the lock is found. -/
theorem checkSyncing_true_of_le (hgood : goodToLock s.cfg ≤ s.deframer.good + 1) :
    checkSyncing true s
      = { s with
          deframer :=
            { s.deframer with
              good := s.deframer.good + 1, lock := .synced, miss := 0, flag := false, phase := .collect } } :=
  if_pos hgood

theorem checkSyncing_true_of_lt (hgood : s.deframer.good + 1 < goodToLock s.cfg) :
    checkSyncing true s
      = { s with deframer := { s.deframer with good := s.deframer.good + 1, flag := false, phase := .collect } } :=
  if_neg (Nat.not_le.mpr hgood)

theorem checkSyncing_false (s : State) : checkSyncing false s = enterNoSync (countSyncError s) := rfl

theorem checkSynced_true (s : State) :
    checkSynced true s = { s with deframer := { s.deframer with miss := 0, flag := false, phase := .collect } } := rfl

/-- A tolerated miss: the frame behind the missed marker is collected all the same, with `FLAG` set. -/
theorem checkSynced_false_of_lt (hmiss : s.deframer.miss + 1 < lossThresh s.cfg) :
    checkSynced false s
      = { countSyncError s with
          deframer := { s.deframer with miss := s.deframer.miss + 1, flag := true, phase := .collect } } :=
  if_neg (Nat.not_le.mpr hmiss)

/-- One miss too many: the lock is lost, and with it the count of misses. -/
theorem checkSynced_false_of_le (hmiss : lossThresh s.cfg ≤ s.deframer.miss + 1) :
    checkSynced false s = enterNoSync (countSyncError s) :=
  if_pos hmiss

/-- The lost lock's attempt is the row `ACQ_EVAL` at the failed marker, whose window ends at the same bit. -/
theorem exec_acqEval_searchFrom (hrun : s.run = .running) (hend : s.avail = s.deframer.pos + markerLen s.cfg) :
    exec .acqEval (clearMetrics (searchFrom s.deframer.pos s)) = .next (enterNoSync s) :=
  exec_acqEval_selected ((windowComplete_iff .search _).mpr ⟨hrun, rfl, hend⟩)

end Outcomes

/-- Settles O32: the two outcomes of the attempt, either side of the threshold. -/
theorem acquisitionAttempt : Obligations.AcquisitionAttempt := by
  rintro s h best hrun hphase hend rfl rfl
  rw [exec_acqEval_selected ((windowComplete_iff .search s).mpr ⟨hrun, hphase, hend⟩)]
  refine ⟨fun hle => ?_, fun hlt => ?_⟩
  · rw [acqEval_of_threshold_le hle]
    rfl
  · rw [acqEval_of_lt_threshold hlt]
    rfl

/-- Settles O34: a pass locks or counts on, a failure loses the lock. -/
theorem checkWhileSyncing : Obligations.CheckWhileSyncing := by
  rintro s sc hrun hphase hlock hend rfl
  rw [exec_checkEval_selected ((windowComplete_iff .check s).mpr ⟨hrun, hphase, hend⟩)]
  refine ⟨fun hpass hgood => ?_, fun hpass hgood => ?_, fun hfail => ?_⟩
  · rw [checkEval_of_syncing hlock (decide_eq_true hpass), checkSyncing_true_of_le (s := setLastScore _ s) hgood]
    rfl
  · rw [checkEval_of_syncing hlock (decide_eq_true hpass), checkSyncing_true_of_lt (s := setLastScore _ s) hgood]
    rfl
  · rw [checkEval_of_syncing hlock (decide_eq_false (Int.not_le.mpr hfail)), checkSyncing_false]
    exact (exec_acqEval_searchFrom (s := countSyncError (setLastScore _ s)) hrun hend).symm

/-- Settles O35: a pass clears the misses, a failure is tolerated or loses the lock. -/
theorem checkWhileSynced : Obligations.CheckWhileSynced := by
  rintro s sc hrun hphase hlock hend rfl
  rw [exec_checkEval_selected ((windowComplete_iff .check s).mpr ⟨hrun, hphase, hend⟩)]
  refine ⟨fun hpass => ?_, fun hfail hmiss => ?_, fun hfail hmiss => ?_⟩
  · rw [checkEval_of_synced hlock (decide_eq_true hpass), checkSynced_true]
    rfl
  · rw [checkEval_of_synced hlock (decide_eq_false (Int.not_le.mpr hfail)),
      checkSynced_false_of_lt (s := setLastScore _ s) hmiss]
    rfl
  · rw [checkEval_of_synced hlock (decide_eq_false (Int.not_le.mpr hfail)),
      checkSynced_false_of_le (s := setLastScore _ s) hmiss]
    exact (exec_acqEval_searchFrom (s := countSyncError (setLastScore _ s)) hrun hend).symm

/-! ## The held hypothesis through a bit step (42_deframer.md R154) -/

/-- From `s` to `t` the held hypothesis is kept, or an acquisition at `POS` has succeeded and replaced it. -/
def HypKeptOrAcquired (s t : State) : Prop :=
  t.deframer.hyp = s.deframer.hyp
    ∨ (t.deframer.lock = .syncing
      ∧ t.deframer.hyp = bestHypothesis s.cfg s.soft s.deframer.hyp s.deframer.pos
      ∧ acqThreshold s.cfg ≤ bestScore s.cfg s.soft s.deframer.pos)

theorem hypKeptOrAcquired_acqEval (s : State) : HypKeptOrAcquired s (acqEval s) := by
  rcases acqEval_cases s with ⟨hle, h⟩ | ⟨-, h⟩ <;> rw [h]
  · exact .inr ⟨rfl, rfl, hle⟩
  · exact .inl rfl

/-- The lost lock keeps `HYP` and `POS` for its attempt. -/
theorem hypKeptOrAcquired_enterNoSync (s : State) : HypKeptOrAcquired s (enterNoSync s) :=
  hypKeptOrAcquired_acqEval (clearMetrics (searchFrom s.deframer.pos s))

theorem hypKeptOrAcquired_checkSyncing (ok : Bool) (s : State) : HypKeptOrAcquired s (checkSyncing ok s) := by
  rcases checkSyncing_cases ok s with ⟨-, -, h⟩ | ⟨-, -, h⟩ | ⟨-, h⟩ <;> rw [h]
  · exact .inl rfl
  · exact .inl rfl
  · exact hypKeptOrAcquired_enterNoSync (countSyncError s)

theorem hypKeptOrAcquired_checkSynced (ok : Bool) (s : State) : HypKeptOrAcquired s (checkSynced ok s) := by
  rcases checkSynced_cases ok s with ⟨-, h⟩ | ⟨-, -, h⟩ | ⟨-, -, h⟩ <;> rw [h]
  · exact .inl rfl
  · exact .inl rfl
  · exact hypKeptOrAcquired_enterNoSync
      { countSyncError s with deframer := { s.deframer with miss := s.deframer.miss + 1 } }

theorem hypKeptOrAcquired_checkEval (s : State) : HypKeptOrAcquired s (checkEval s) := by
  obtain ⟨ok, -, ⟨-, h⟩ | ⟨-, h⟩⟩ := checkEval_cases s <;> rw [h]
  · exact hypKeptOrAcquired_checkSyncing ok (setLastScore _ s)
  · exact hypKeptOrAcquired_checkSynced ok (setLastScore _ s)

theorem hypKeptOrAcquired_deframerBit (n : Nat) (s : State) : HypKeptOrAcquired s (deframerBit n s) := by
  rcases deframerBit_cases n s with ⟨-, -, h⟩ | ⟨-, -, h⟩ | ⟨-, -, h⟩ | ⟨-, h⟩ <;> rw [h]
  · exact hypKeptOrAcquired_acqEval s
  · exact .inl rfl
  · exact hypKeptOrAcquired_checkEval s
  · exact .inl rfl

/-! ## The held hypothesis through an instruction (42_deframer.md R154; 47_host_commands.md R272, R274) -/

theorem eq_one_of_commandOf_start {w : Word} (h : commandOf w = .start) : w = 1 := by
  simpa [h] using commandOf_cases w

theorem deliverBeat_deframer (b : OutBeat) (s : State) : (deliverBeat b s).deframer = s.deframer := by
  rcases deliverBeat_cases b s with ⟨-, h⟩ | ⟨-, h⟩ <;> rw [h]

theorem stopCommand_deframer (s : State) : (stopCommand s).deframer = s.deframer := by
  rcases stopCommand_cases s with ⟨-, -, h⟩ | ⟨-, h⟩ <;> rw [h]

theorem startCommand_hyp (c : CfgRegs) (s : State) :
    (startCommand c s).deframer.hyp = s.deframer.hyp ∨ (startCommand c s).deframer.hyp = 0 := by
  rcases startCommand_cases c s with ⟨-, h⟩ | ⟨-, h⟩ <;> rw [h]
  · exact .inr rfl
  · exact .inl rfl

/-- A `START` that meets `DIFF_MODE = 3` is refused, so it resets nothing. -/
theorem startCommand_withDiffReserved_deframer (s : State) :
    (startCommand (withDiffReserved s.cfg) s).deframer = s.deframer := by
  rcases startCommand_cases (withDiffReserved s.cfg) s with ⟨hlegal, -⟩ | ⟨-, h⟩
  · exact absurd hlegal (startFail_withDiffReserved s.cfg)
  · rw [h]
    rfl

theorem runCommand_hyp (cmd : Command) (s : State) :
    (runCommand cmd s).deframer.hyp = s.deframer.hyp
      ∨ ((cmd = .start ∨ cmd = .softReset) ∧ (runCommand cmd s).deframer.hyp = 0) := by
  rcases runCommand_cases cmd s with ⟨-, h⟩ | ⟨-, h⟩ <;> rw [h]
  · cases cmd with
    | start => exact (startCommand_hyp s.cfg s).imp_right fun hzero => ⟨.inl rfl, hzero⟩
    | stop => exact .inl (congrArg Deframer.hyp (stopCommand_deframer s))
    | softReset => exact .inr ⟨.inr rfl, rfl⟩
    | _ => exact .inl rfl
  · exact .inl (congrArg Deframer.hyp (raiseStatus_deframer .cmdErr s))

/-- Instruction `i` may give `HYP` a new value between `s` and `t`: 0 by a reset command, or as the deframer's bit steps do in
`RUNNING`. -/
def HypChanger (i : Instr) (s t : State) : Prop :=
  ((IsCommand i .start 1 ∨ IsCommand i .softReset 3) ∧ t.deframer.hyp = 0)
    ∨ ((i = .acqEval ∨ i = .checkEval ∨ (∃ d, i = .sym d) ∨ (∃ d, i = .symLast d)) ∧ s.run = .running)

theorem hypChanger_runCommand {i : Instr} {w : Word} (hi : IsCommand i (decodeCommand w) w) (s : State) :
    (runCommand (commandOf w) s).deframer.hyp = s.deframer.hyp ∨ HypChanger i s (runCommand (commandOf w) s) := by
  rcases runCommand_hyp (commandOf w) s with hkept | ⟨hstart | hreset, hzero⟩
  · exact .inl hkept
  · obtain rfl := eq_one_of_commandOf_start hstart
    exact .inr (.inl ⟨.inl hi, hzero⟩)
  · obtain rfl := eq_three_of_commandOf_softReset hreset
    exact .inr (.inl ⟨.inr hi, hzero⟩)

/-- Outside `RUNNING` a beat changes nothing. -/
theorem hypChanger_takeBeat {i : Instr} {last : Bool} {d : Soft} (hi : i = if last then .symLast d else .sym d)
    (s : State) : (takeBeat last d s).deframer.hyp = s.deframer.hyp ∨ HypChanger i s (takeBeat last d s) := by
  by_cases hrun : s.run = .running
  · cases last with
    | false => exact .inr (.inr ⟨.inr (.inr (.inl ⟨d, hi⟩)), hrun⟩)
    | true => exact .inr (.inr ⟨.inr (.inr (.inr ⟨d, hi⟩)), hrun⟩)
  · rw [takeBeat_of_not_running hrun]
    exact .inl rfl

theorem Effect.hyp_eq_or_changer {s t : State} {i : Instr} (he : Effect s i t) :
    t.deframer.hyp = s.deframer.hyp ∨ HypChanger i s t := by
  cases he with
  | command w hi => exact hypChanger_runCommand hi s
  | reservedStart hidle => exact .inl (congrArg Deframer.hyp (startCommand_withDiffReserved_deframer s))
  | raised i b => exact .inl (congrArg Deframer.hyp (raiseStatus_deframer b s))
  | stored off v r hr ha hidle => exact .inl rfl
  | answered i a last => exact .inl rfl
  | viterbi z a hcode => exact .inl rfl
  | beat last d hi => exact hypChanger_takeBeat hi s
  | delivered b hb => exact .inl (congrArg Deframer.hyp (deliverBeat_deframer b s))
  | attempted hw => exact .inr (.inr ⟨.inl rfl, ((windowComplete_iff _ s).mp hw).1⟩)
  | checked hw => exact .inr (.inr ⟨.inr (.inl rfl), ((windowComplete_iff _ s).mp hw).1⟩)
  | collected hf => exact .inl rfl
  | emitted hf => exact .inl rfl

/-- Settles O36: a bit step changes `HYP` only by acquiring, and no effect but those listed reaches it. -/
theorem hypChangesOnlyAtAcquisition : Obligations.HypChangesOnlyAtAcquisition :=
  ⟨fun n s hchanged => (hypKeptOrAcquired_deframerBit n s).resolve_left hchanged,
    fun _ _ _ hexec hchanged => (exec_effect hexec).hyp_eq_or_changer.resolve_left hchanged⟩

end Sys2Proof.Machine
end

section
/-! SUPPORT. The derandomizer and the differential decoder (43_descrambler.md): values, hard decisions, and what complementing
its input does to each; and the `START` that meets `DIFF_MODE = 3`. -/

namespace Sys2Proof.Machine

/-! ## What each row answers (R182, R185, R186) -/

section Rows
variable (s : State)

theorem exec_derand (x : List Soft) : exec (.derand x) s = .next { s with answer := .softs (derandomize x) } := rfl

theorem exec_nrzm (y : Soft) :
    exec (.nrzm y) s = .next { s with lastBit := hard y, answer := .soft (nrzmOut s.lastBit y) } := rfl

theorem exec_nrzs (y : Soft) :
    exec (.nrzs y) s = .next { s with lastBit := hard y, answer := .soft (nrzsOut s.lastBit y) } := rfl

end Rows

/-! ## Values complemented where a bit is 1 -/

@[simp] theorem invIf_invIf (b : Bool) (x : Soft) : invIf b (invIf b x) = x := by
  cases b
  · rfl
  · exact inv8_inv8 x

@[simp] theorem invIf_not_inv8 (b : Bool) (x : Soft) : invIf (!b) (inv8 x) = invIf b x := by
  cases b
  · exact inv8_inv8 x
  · rfl

@[simp] theorem hard_invIf (b : Bool) (x : Soft) : hard (invIf b x) = (hard x ^^ b) := by
  cases b
  · exact (Bool.xor_false _).symm
  · exact (hard_inv8 x).trans (Bool.xor_true _).symm

/-! ## The derandomizer (R182 to R184) -/

/-- Bit `7 - j mod 8` of the pseudo-noise byte, as R182 counts it. -/
theorem pnBit_eq_true_iff (j : Nat) :
    pnBit j = true ↔ (pnTable.getD (j / 8 % 255) 0).toNat / 2 ^ (7 - j % 8) % 2 = 1 := by
  have hlt : j % 8 < 8 := Nat.mod_lt _ (by decide)
  rw [pnBit, pnByte, BitVec.getMsbD, BitVec.getLsbD, Nat.testBit_eq_decide_div_mod_eq]
  simp [hlt]

/-- The eight bits of payload byte `k` meet those of pseudo-noise byte `k mod 255`. -/
theorem pnBit_of_byte (k : Nat) {i : Nat} (hi : i < 8) : pnBit (8 * k + i) = (pnByte (k % 255)).getMsbD i := by
  have hbyte : (8 * k + i) / 8 = k := by omega
  have hbit : (8 * k + i) % 8 = i := by omega
  rw [pnBit, hbyte, hbit]

@[simp] theorem derandomize_length (x : List Soft) : (derandomize x).length = x.length := derandFrom_length 0 x

theorem derandomize_getElem (x : List Soft) (j : Nat) (hj : j < x.length) :
    (derandomize x)[j]'(by simpa using hj) = invIf (pnBit j) x[j] :=
  (derandFrom_getElem 0 x j hj).trans (by rw [Nat.zero_add])

theorem derandFrom_derandFrom (j : Nat) (x : List Soft) : derandFrom j (derandFrom j x) = x := by
  induction x generalizing j with
  | nil => rfl
  | cons a x ih => rw [derandFrom, derandFrom, invIf_invIf, ih]

/-- Settles O41: value by value, with the pseudo-noise bit read off the table. -/
theorem derandResult : Obligations.DerandResult := by
  intro s x
  refine ⟨derandomize x, exec_derand s x, derandomize_length x, fun j hx _ => ?_⟩
  rw [derandomize_getElem x j hx, invIf]
  exact if_congr (pnBit_eq_true_iff j) rfl rfl

/-- Settles O43: the two passes meet one sequence, and complementing twice is no change. -/
theorem derandIsInvolution : Obligations.DerandIsInvolution := derandFrom_derandFrom 0

/-! ## Packed bits (20_memory.md R64) -/

/-- Bits read as a number, first bit most significant, and read out again from its low end. -/
theorem testBit_foldl_bits (bits : List Bool) {i : Nat} (hi : i < bits.length) :
    (bits.foldl (fun acc (b : Bool) => 2 * acc + b.toNat) 0).testBit (bits.length - 1 - i) = bits[i] := by
  induction bits using List.reverseRecOn with
  | nil => simp at hi
  | append_singleton bits b ih =>
    rw [List.foldl_append, List.foldl_cons, List.foldl_nil, ← Nat.bit_val, List.length_append, List.length_singleton]
    rcases Nat.lt_or_ge i bits.length with hlt | hge
    · have hpos : bits.length + 1 - 1 - i = (bits.length - 1 - i) + 1 := by omega
      rw [hpos, Nat.testBit_bit_succ, ih hlt, List.getElem_append_left hlt]
    · obtain rfl : i = bits.length := by
        simp only [List.length_append, List.length_singleton] at hi
        omega
      simp

theorem byteOfBits_getMsbD {bits : List Bool} (hlen : bits.length = 8) {i : Nat} (hi : i < 8) :
    (byteOfBits bits).getMsbD i = bits.getD i false := by
  have hlast : 8 - 1 - i < 8 := by omega
  rw [List.getD_eq_getElem _ _ (hlen ▸ hi), ← testBit_foldl_bits bits, hlen, byteOfBits, BitVec.getMsbD, BitVec.getLsbD_ofNat,
    decide_eq_true hi, decide_eq_true hlast, Bool.true_and, Bool.true_and]

/-- Bit `i` of packed byte `k`, most significant first, is bit `8k + i`. -/
theorem packBits_getMsbD (bits : List Bool) {k i : Nat} (hk : k < bits.length / 8) (hi : i < 8) :
    ((packBits bits).getD k 0).getMsbD i = bits.getD (8 * k + i) false := by
  induction bits using packBits.induct generalizing k with
  | case1 b0 b1 b2 b3 b4 b5 b6 b7 rest ih =>
    rw [packBits_cons8]
    cases k with
    | zero =>
      rw [List.getD_cons_zero, byteOfBits_getMsbD rfl hi]
      interval_cases i <;> rfl
    | succ k =>
      rw [List.getD_cons_succ, ih (by simp only [List.length_cons] at hk; omega),
        show 8 * (k + 1) + i = 8 * k + i + 8 by omega]
      rfl
  | case2 bits h =>
    have hempty : packBits bits = [] := packBits.eq_2 bits h
    have hlen := packBits_length bits
    rw [hempty, List.length_nil] at hlen
    omega

/-- Bit `i` of packed byte `k`, most significant first, is the hard decision of value `8k + i` (R250). -/
theorem hardPack_getMsbD (z : List Soft) {k i : Nat} (hk : k < z.length / 8) (hi : i < 8) :
    ((hardPack z).getD k 0).getMsbD i = hard (z.getD (8 * k + i) 0) := by
  have hlt : 8 * k + i < z.length := by omega
  rw [hardPack, packBits_getMsbD _ (by simpa using hk) hi]
  simp [List.getD_eq_getElem?_getD, hlt]

theorem hard_derandomize_getD (x : List Soft) {j : Nat} (hj : j < x.length) :
    hard ((derandomize x).getD j 0) = (hard (x.getD j 0) ^^ pnBit j) := by
  rw [List.getD_eq_getElem _ _ (by simpa using hj), derandomize_getElem x j hj, hard_invIf, List.getD_eq_getElem _ _ hj]

/-- Settles O42: bit by bit, a hard decision is flipped exactly where the pseudo-noise byte has a 1. -/
theorem derandXorsHardBytes : Obligations.DerandXorsHardBytes := by
  intro x k _ hk
  refine BitVec.eq_of_getMsbD_eq fun i hi => ?_
  have hlt : 8 * k + i < x.length := by omega
  calc ((hardPack (derandomize x)).getD k 0).getMsbD i
      = hard ((derandomize x).getD (8 * k + i) 0) := hardPack_getMsbD _ (by simpa using hk) hi
    _ = (hard (x.getD (8 * k + i) 0) ^^ pnBit (8 * k + i)) := hard_derandomize_getD x hlt
    _ = (((hardPack x).getD k 0).getMsbD i ^^ (pnByte (k % 255)).getMsbD i) := by
      rw [hardPack_getMsbD x hk hi, pnBit_of_byte k hi]
    _ = _ := BitVec.getMsbD_xor.symm

/-! ## The differential decoder (R185 to R190) -/

/-- Settles O44: the two outputs by the bit held before, and their hard decisions. -/
theorem nrzResults : Obligations.NrzResults := by
  intro s y
  refine ⟨exec_nrzm s y, ?_, hard_invIf s.lastBit y, ?_⟩
  · rw [exec_nrzs, nrzsOut]
    cases s.lastBit <;> rfl
  · rw [nrzsOut, hard_invIf, Bool.xor_not]

/-- A marker of at least one bit replaces the `LASTBIT` held before the frame by its first hard decision, then its others. -/
theorem diffFrame_cons {mode : Nat} (hmode : mode ≠ 0) (last : Bool) (m : Soft) (marker payload : List Soft) :
    diffFrame mode last (m :: marker) payload = diffRun mode (diffRun mode (hard m) marker).2 payload :=
  if_neg hmode

theorem diffOut_not_inv8 (mode : Nat) (last : Bool) (y : Soft) : diffOut mode (!last) (inv8 y) = diffOut mode last y := by
  unfold diffOut nrzmOut nrzsOut
  simp only [invIf_not_inv8]

/-- Complementing `LASTBIT` and every input complements `LASTBIT` after them and leaves the outputs. -/
theorem diffRun_not_inv8 (mode : Nat) (last : Bool) (y : List Soft) :
    diffRun mode (!last) (y.map inv8) = ((diffRun mode last y).1, !(diffRun mode last y).2) := by
  induction y generalizing last with
  | nil => rfl
  | cons a y ih => simp only [List.map_cons, diffRun, diffOut_not_inv8, hard_inv8, ih]

/-- Settles O45: no output of the payload is read from the `LASTBIT` held before the marker. -/
theorem diffIgnoresEarlierLastBit : Obligations.DiffIgnoresEarlierLastBit := by
  intro mode l1 l2 m marker payload hmode
  rw [diffFrame_cons hmode, diffFrame_cons hmode]

/-- Settles O46: the complemented marker leaves `LASTBIT` complemented, with which the complemented payload gives the same
outputs. -/
theorem diffRemovesInversion : Obligations.DiffRemovesInversion := by
  intro mode last m marker payload hmode
  rw [List.map_cons, diffFrame_cons hmode, diffFrame_cons hmode, hard_inv8, diffRun_not_inv8, diffRun_not_inv8]

/-! ## The `START` that meets `DIFF_MODE = 3` (R191; 47_host_commands.md R272) -/

theorem diffMode_eq_three_iff (c : CfgRegs) :
    diffMode c = 3 ↔ c.mode.getLsbD 3 = true ∧ c.mode.getLsbD 4 = true := by
  simp only [diffMode, field, BitVec.getLsbD, Nat.testBit_eq_decide_div_mod_eq, decide_eq_true_iff]
  omega

theorem diffMode_withDiffReserved (c : CfgRegs) : diffMode (withDiffReserved c) = 3 := by
  simp [diffMode_eq_three_iff, withDiffReserved]

/-- Where `MODE` already selects 3, setting the selection changes nothing. -/
theorem withDiffReserved_of_diffMode_three {c : CfgRegs} (h : diffMode c = 3) : withDiffReserved c = c := by
  obtain ⟨h3, h4⟩ := (diffMode_eq_three_iff c).mp h
  have hmask : ∀ i < 32, (0x18 : Word).getLsbD i = true → i = 3 ∨ i = 4 := by decide
  have hmode : c.mode ||| 0x18 = c.mode := by
    refine BitVec.eq_of_getLsbD_eq fun i hi => ?_
    rw [BitVec.getLsbD_or, Bool.or_eq_left_iff_imp]
    intro hset
    rcases hmask i hi hset with rfl | rfl
    · exact h3
    · exact h4
  rw [withDiffReserved, hmode]

/-- Checks 1 to 3 do not read `DIFF_MODE`, and check 4 fails. -/
theorem startFail_withDiffReserved_eq (c : CfgRegs) :
    startFail (withDiffReserved c)
      = if failsMarkerLen c then 1 else if failsFrameLen c then 2 else if failsAlignment c then 3 else 4 := by
  have hvit : vitEn (withDiffReserved c) = vitEn c := by simp [vitEn, bitOf, withDiffReserved]
  have hmarker : failsMarkerLen (withDiffReserved c) = failsMarkerLen c := rfl
  have hframe : failsFrameLen (withDiffReserved c) = failsFrameLen c := rfl
  have halign : failsAlignment (withDiffReserved c) = failsAlignment c := by
    rw [failsAlignment, hvit]
    rfl
  have hdiff : failsDiffMode (withDiffReserved c) = true := decide_eq_true (diffMode_withDiffReserved c)
  rw [startFail, hmarker, hframe, halign, if_pos hdiff]

theorem startFail_withDiffReserved_bounds (c : CfgRegs) :
    1 ≤ (startFail (withDiffReserved c)).toNat ∧ (startFail (withDiffReserved c)).toNat ≤ 4 := by
  rw [startFail_withDiffReserved_eq]
  split_ifs <;> decide

theorem startFail_withDiffReserved_eq_four {c : CfgRegs} (h1 : ¬ StartCheckFails c 1) (h2 : ¬ StartCheckFails c 2)
    (h3 : ¬ StartCheckFails c 3) : startFail (withDiffReserved c) = 4 := by
  rw [startFail_withDiffReserved_eq, if_neg ((failsMarkerLen_iff c).not.mpr h1), if_neg ((failsFrameLen_iff c).not.mpr h2),
    if_neg ((failsAlignment_iff c).not.mpr h3)]

theorem startCommand_withDiffReserved (s : State) :
    startCommand (withDiffReserved s.cfg) s = raiseCfgFail (startFail (withDiffReserved s.cfg)) s :=
  if_neg (startFail_withDiffReserved s.cfg)

section Start
variable {s : State}

theorem exec_start_of_idle (hidle : s.run = .idle) : exec .start s = .next (startCommand s.cfg s) :=
  congrArg _ (if_pos ((commandLegal_start s.run).mpr hidle))

theorem exec_diffReserved_of_idle (hidle : s.run = .idle) :
    exec .diffReserved s = .next (startCommand (withDiffReserved s.cfg) s) :=
  congrArg _ (if_pos ((commandLegal_start s.run).mpr hidle))

theorem exec_diffReserved_of_not_idle (hrun : s.run ≠ .idle) : exec .diffReserved s = .next (raiseStatus .cmdErr s) :=
  congrArg _ (if_neg (mt (commandLegal_start s.run).mp hrun))

end Start

/-- Settles O19: `START` fails at the first of checks 1 to 4, and is out of state outside `IDLE`. -/
theorem diffModeThreeRefused : Obligations.DiffModeThreeRefused := by
  refine fun s => ⟨fun hidle => ⟨⟨startFail (withDiffReserved s.cfg), ?_, ?_, ?_, ?_⟩, fun hthree => ?_⟩,
    exec_diffReserved_of_not_idle⟩
  · exact (startFail_withDiffReserved_bounds s.cfg).1
  · exact (startFail_withDiffReserved_bounds s.cfg).2
  · rw [exec_diffReserved_of_idle hidle, startCommand_withDiffReserved, raiseCfgFail_eq]
  · exact fun ⟨h1, h2, h3⟩ => startFail_withDiffReserved_eq_four h1 h2 h3
  · rw [exec_start_of_idle hidle, exec_diffReserved_of_idle hidle, withDiffReserved_of_diffMode_three hthree]

end Sys2Proof.Machine
end

section
/-! SUPPORT. The Viterbi decoder (44_viterbi.md): its trellis and code in the terms of the statements, the survivor path of every
state, and what the decoded path is among all paths of a frame. -/

namespace Sys2Proof.Machine

/-! ## The trellis (R201, R203) -/

section Trellis
variable {code : VitCode} {st e : Nat}

theorem two_le_k_of_codeLegal (hcode : codeLegal code = true) : 2 ≤ code.k := by
  obtain ⟨hk, -⟩ := (codeLegal_iff code).mp hcode
  omega

theorem stateCount_eq_two_mul (hk : 2 ≤ code.k) : stateCount code = 2 * 2 ^ (code.k - 2) := by
  rw [stateCount, ← Nat.pow_succ', show (code.k - 2).succ = code.k - 1 by omega]

theorem encReg_eq_add (u : Bool) (hst : st < stateCount code) : encReg code u st = u.toNat * 2 ^ (code.k - 1) + st := by
  rw [encReg, ← Nat.shiftLeft_add_eq_or_of_lt hst, Nat.shiftLeft_eq]

theorem half_lt_of_lt_stateCount (hk : 2 ≤ code.k) (hst : st < stateCount code) : st / 2 < 2 ^ (code.k - 2) := by
  rw [stateCount_eq_two_mul hk] at hst
  omega

/-- The encoder's next state, as the statements count it. -/
theorem encNext_eq_stateAfter (hk : 2 ≤ code.k) (u : Bool) (hst : st < stateCount code) :
    encNext code u st = stateAfter code u st := by
  rw [encNext, Nat.shiftRight_one, ← Nat.shiftLeft_add_eq_or_of_lt (half_lt_of_lt_stateCount hk hst), Nat.shiftLeft_eq,
    stateAfter]

theorem pred_eq_add (code : VitCode) (e : Nat) (x : Bool) : pred code e x = 2 * (e % 2 ^ (code.k - 2)) + x.toNat := by
  rw [pred, Nat.and_two_pow_sub_one_eq_mod, ← Nat.shiftLeft_add_eq_or_of_lt (i := 1) x.toNat_lt, Nat.shiftLeft_eq, pow_one,
    Nat.mul_comm]

theorem entryBit_eq_decide (code : VitCode) (e : Nat) : entryBit code e = decide (e / 2 ^ (code.k - 2) % 2 = 1) := by
  rw [entryBit, Nat.shiftRight_eq_div_pow]

theorem stateAfter_lt (hk : 2 ≤ code.k) (u : Bool) (hst : st < stateCount code) : stateAfter code u st < stateCount code := by
  have hhalf := half_lt_of_lt_stateCount hk hst
  rw [stateCount_eq_two_mul hk, stateAfter]
  cases u
  · rw [Bool.toNat_false]
    omega
  · rw [Bool.toNat_true]
    omega

theorem pred_lt (hk : 2 ≤ code.k) (e : Nat) (x : Bool) : pred code e x < stateCount code := by
  have hmod : e % 2 ^ (code.k - 2) < 2 ^ (code.k - 2) := Nat.mod_lt _ (Nat.two_pow_pos _)
  have hx := x.toNat_lt
  rw [stateCount_eq_two_mul hk, pred_eq_add]
  omega

/-- Either predecessor leads back to the state, under the state's entry bit. -/
theorem stateAfter_pred (hk : 2 ≤ code.k) (he : e < stateCount code) (x : Bool) :
    stateAfter code (entryBit code e) (pred code e x) = e := by
  have hx := x.toNat_lt
  have hhalf : (2 * (e % 2 ^ (code.k - 2)) + x.toNat) / 2 = e % 2 ^ (code.k - 2) := by omega
  have hquot : e / 2 ^ (code.k - 2) < 2 :=
    Nat.div_lt_of_lt_mul (by rw [Nat.mul_comm, ← stateCount_eq_two_mul hk]; exact he)
  have hbit : (entryBit code e).toNat = e / 2 ^ (code.k - 2) := by
    rw [entryBit_eq_decide]
    interval_cases e / 2 ^ (code.k - 2) <;> rfl
  rw [stateAfter, pred_eq_add, hhalf, hbit, Nat.mul_comm, Nat.div_add_mod]

/-- Every transition enters its next state under that state's entry bit, from one of that state's two predecessors. -/
theorem entryBit_stateAfter_and_exists_pred (hk : 2 ≤ code.k) (u : Bool) (hst : st < stateCount code) :
    entryBit code (stateAfter code u st) = u ∧ ∃ x, pred code (stateAfter code u st) x = st := by
  have hhalf := half_lt_of_lt_stateCount hk hst
  have hquot : stateAfter code u st / 2 ^ (code.k - 2) = u.toNat := by
    rw [stateAfter, Nat.mul_comm, Nat.mul_add_div (Nat.two_pow_pos _), Nat.div_eq_of_lt hhalf, Nat.add_zero]
  have hmod : stateAfter code u st % 2 ^ (code.k - 2) = st / 2 := by
    rw [stateAfter, Nat.mul_comm, Nat.mul_add_mod, Nat.mod_eq_of_lt hhalf]
  refine ⟨?_, decide (st % 2 = 1), ?_⟩
  · rw [entryBit_eq_decide, hquot]
    cases u <;> rfl
  · rw [pred_eq_add, hmod, Bool.toNat, Bool.cond_decide]
    split <;> omega

theorem encodeFrom_cons (hk : 2 ≤ code.k) (u : Bool) (hst : st < stateCount code) (msg : List Bool) :
    encodeFrom code st (u :: msg) = codePair code (encReg code u st) :: encodeFrom code (stateAfter code u st) msg := by
  rw [encodeFrom, encNext_eq_stateAfter hk u hst]

end Trellis

/-! ## Code symbols (R201) -/

/-- A fold of exclusive ors says whether an odd number of the folded terms is set. -/
theorem foldl_xor_eq_decide_odd (f : Nat → Bool) (l : List Nat) (acc : Bool) :
    l.foldl (fun acc i => acc ^^ f i) acc = (acc ^^ decide ((l.filter f).length % 2 = 1)) := by
  induction l generalizing acc with
  | nil => simp
  | cons a l ih =>
    rw [List.foldl_cons, ih, List.filter_cons]
    cases f a
    · simp
    · rcases Nat.mod_two_eq_zero_or_one (l.filter f).length with h | h <;> simp [Nat.add_mod, h]

/-- The set bits of a number below `2^k` are its set bits up to its highest. -/
theorem filter_testBit_range {v k : Nat} (hk : 0 < k) (hv : v < 2 ^ k) :
    (List.range k).filter v.testBit = (List.range (v.log2 + 1)).filter v.testBit := by
  have hlog : v.log2 + 1 ≤ k := by
    rcases Nat.eq_zero_or_pos v with rfl | hpos
    · exact hk
    · exact (Nat.log2_lt hpos.ne').mpr hv
  obtain ⟨d, rfl⟩ := Nat.exists_eq_add_of_le hlog
  have habove : ((List.range d).map (v.log2 + 1 + ·)).filter v.testBit = [] := by
    simp only [List.filter_eq_nil_iff, List.forall_mem_map, Bool.not_eq_true]
    exact fun i _ => Nat.testBit_lt_two_pow (Nat.lt_log2_self.trans_le (Nat.pow_le_pow_right Nat.two_pos (Nat.le_add_right _ i)))
  rw [List.range_add, List.filter_append, habove, List.append_nil]

/-- The parity of the tapped bits of a register, as the statements count them. -/
theorem parity_and_eq_decide_odd (reg : Nat) {g k : Nat} (hk : 0 < k) (hg : g < 2 ^ k) :
    parity (reg &&& g) = decide (((List.range k).filter fun i => reg.testBit i && g.testBit i).length % 2 = 1) := by
  rw [parity, foldl_xor_eq_decide_odd, Bool.false_xor, ← filter_testBit_range hk (Nat.and_lt_two_pow reg hg),
    List.filter_congr fun i _ => Nat.testBit_and reg g i]

/-- The two symbols as the statements count them. -/
theorem symbolsOf_eq_codePair {code : VitCode} (hcode : codeLegal code = true) (u : Bool) {st : Nat}
    (hst : st < stateCount code) :
    symbolsOf code u st = [(codePair code (encReg code u st)).1, (codePair code (encReg code u st)).2] := by
  obtain ⟨hk, -, -, hg1, -, hg2⟩ := (codeLegal_iff code).mp hcode
  have hpos : 0 < code.k := by omega
  rw [codePair, parity_and_eq_decide_odd _ hpos hg1, parity_and_eq_decide_odd _ hpos hg2, encReg_eq_add u hst, symbolsOf]

/-- The code bits of a path, read as pairs, are the encoder's symbols. -/
theorem pathBits_eq_flatMap {code : VitCode} (hcode : codeLegal code = true) {st : Nat} (hst : st < stateCount code)
    (msg : List Bool) : pathBits code st msg = (encodeFrom code st msg).flatMap fun r => [r.1, r.2] := by
  have hk := two_le_k_of_codeLegal hcode
  induction msg generalizing st with
  | nil => rfl
  | cons u msg ih =>
    rw [pathBits, encodeFrom_cons hk u hst, symbolsOf_eq_codePair hcode u hst, ih (stateAfter_lt hk u hst), List.flatMap_cons]

/-! ## Costs and bit errors of symbols against a frame (R202, R205) -/

/-- The cost of a frame's pairs against a list of code symbol pairs. -/
def symbolsCost (ys : List (Soft × Soft)) (rs : List (Bool × Bool)) : Nat := (List.zipWith pairCost ys rs).sum

theorem symbolsCost_cons (y : Soft × Soft) (ys : List (Soft × Soft)) (r : Bool × Bool) (rs : List (Bool × Bool)) :
    symbolsCost (y :: ys) (r :: rs) = pairCost y r + symbolsCost ys rs := by
  rw [symbolsCost, List.zipWith_cons_cons, List.sum_cons, symbolsCost]

theorem cost_eq_ite (y : Soft) (bit : Bool) : (cost y bit : Int) = if bit then 127 - y.toInt else y.toInt + 128 := by
  have hlow : -128 ≤ y.toInt := BitVec.le_toInt y
  have hhigh : y.toInt < 128 := BitVec.toInt_lt
  rw [cost]
  split <;> omega

theorem symbolsCost_pairsOf {z : List Soft} {rs : List (Bool × Bool)} (hlen : z.length = 2 * rs.length) :
    (symbolsCost (pairsOf z) rs : Int)
      = (((rs.flatMap fun r => [r.1, r.2]).zip z).map fun p => if p.1 then 127 - p.2.toInt else p.2.toInt + 128).sum := by
  induction rs generalizing z with
  | nil => simp [symbolsCost]
  | cons r rs ih =>
    match z, hlen with
    | y1 :: y2 :: z, hlen =>
      have htail : z.length = 2 * rs.length := by
        simp only [List.length_cons] at hlen
        omega
      simp only [pairsOf, symbolsCost_cons, pairCost, Nat.cast_add, cost_eq_ite, ih htail, List.flatMap_cons, List.cons_append,
        List.nil_append, List.zip_cons_cons, List.map_cons, List.sum_cons, add_assoc]

theorem countDiffering_pairsOf {z : List Soft} {rs : List (Bool × Bool)} (hlen : z.length = 2 * rs.length) :
    countDiffering (pairsOf z) rs
      = (((rs.flatMap fun r => [r.1, r.2]).zip z).filter fun p => p.1 != decide (0 ≤ p.2.toInt)).length := by
  rw [← List.countP_eq_length_filter]
  induction rs generalizing z with
  | nil => simp [countDiffering]
  | cons r rs ih =>
    match z, hlen with
    | y1 :: y2 :: z, hlen =>
      have htail : z.length = 2 * rs.length := by
        simp only [List.length_cons] at hlen
        omega
      simp only [pairsOf, countDiffering, ih htail, List.flatMap_cons, List.cons_append, List.nil_append, List.zip_cons_cons,
        List.countP_cons, ← hard_eq_decide, bne_comm (a := hard _), Bool.toNat, Bool.cond_eq_ite]
      omega

theorem countDiffering_le (ys : List (Soft × Soft)) (rs : List (Bool × Bool)) : countDiffering ys rs ≤ 2 * ys.length := by
  induction ys generalizing rs with
  | nil => exact Nat.zero_le _
  | cons y ys ih =>
    cases rs with
    | nil => exact Nat.zero_le _
    | cons r rs =>
      have h1 := (hard y.1 != r.1).toNat_lt
      have h2 := (hard y.2 != r.2).toNat_lt
      have := ih rs
      simp only [countDiffering, List.length_cons]
      omega

/-! ## Paths -/

/-- The metric of a path in the model's terms: `PM` of its start state and the cost of its symbols. -/
def pathMetric (code : VitCode) (pm : List Nat) (ys : List (Soft × Soft)) (st : Nat) (msg : List Bool) : Nat :=
  pm.getD st 0 + symbolsCost ys (encodeFrom code st msg)

theorem pathCost_eq_pathMetric {code : VitCode} (hcode : codeLegal code = true) (pm : List Nat) {z : List Soft} {st : Nat}
    (hst : st < stateCount code) {msg : List Bool} (hlen : z.length = 2 * msg.length) :
    pathCost code pm z st msg = pathMetric code pm (pairsOf z) st msg := by
  rw [pathCost, pathBits_eq_flatMap hcode hst, ← symbolsCost_pairsOf (by simpa using hlen), pathMetric, Nat.cast_add]

@[simp] theorem pathStates_length (code : VitCode) (st : Nat) (msg : List Bool) :
    (pathStates code st msg).length = msg.length + 1 := by
  induction msg generalizing st with
  | nil => rfl
  | cons u msg ih => simp [pathStates, ih]

theorem pathStates_ne_nil (code : VitCode) (st : Nat) (msg : List Bool) : pathStates code st msg ≠ [] :=
  List.ne_nil_of_length_pos (by simp)

theorem pathStates_cons_head? (code : VitCode) (st : Nat) (u : Bool) (msg : List Bool) :
    (pathStates code st (u :: msg)).head? = (pathStates code (stateAfter code u st) msg).head? :=
  List.head?_append_of_ne_nil _ (pathStates_ne_nil _ _ _)

theorem pathStates_getLast? (code : VitCode) (st : Nat) (msg : List Bool) :
    (pathStates code st msg).getLast? = some st := by
  cases msg with
  | nil => rfl
  | cons u msg => exact List.getLast?_concat

/-- Every path ends in a state of the code. -/
theorem exists_pathStates_head? {code : VitCode} (hk : 2 ≤ code.k) {st : Nat} (hst : st < stateCount code) (msg : List Bool) :
    ∃ e, e < stateCount code ∧ (pathStates code st msg).head? = some e := by
  induction msg generalizing st with
  | nil => exact ⟨st, hst, rfl⟩
  | cons u msg ih =>
    rw [pathStates_cons_head?]
    exact ih (stateAfter_lt hk u hst)

/-- Lists of one length that differ keep their order whatever is appended to each. -/
theorem lex_append_of_length_eq {l l' : List Nat} (hlt : List.Lex (· < ·) l l') (hlen : l.length = l'.length) (t t' : List Nat) :
    List.Lex (· < ·) (l ++ t) (l' ++ t') := by
  induction hlt with
  | nil => simp at hlen
  | cons _ ih => exact .cons (ih (Nat.succ.inj hlen))
  | rel h => exact .rel h

theorem append_singleton_le {l l' : List Nat} {a a' : Nat} (hlen : l.length = l'.length) (hle : l ≤ l')
    (htie : l = l' → a ≤ a') : l ++ [a] ≤ l' ++ [a'] := by
  rcases hle.lt_or_eq with hlt | rfl
  · exact le_of_lt (lex_append_of_length_eq hlt hlen [a] [a'])
  · rcases (htie rfl).lt_or_eq with hlt | rfl
    · exact le_of_lt (List.Lex.append_left _ (.rel hlt) l)
    · exact le_rfl

/-! ## Add, compare and select (R203) -/

section Select
variable (code : VitCode) (pm : List Nat) (y : Soft × Soft)

theorem selectBranch_eq_ite (e : Nat) :
    selectBranch code pm y e
      = if branchMetric code pm y e true < branchMetric code pm y e false then (branchMetric code pm y e true, true)
        else (branchMetric code pm y e false, false) := rfl

theorem selectBranch_metric (e : Nat) :
    branchMetric code pm y e (selectBranch code pm y e).2 = (selectBranch code pm y e).1 := by
  rw [selectBranch_eq_ite]
  split <;> rfl

theorem selectBranch_le (e : Nat) (x : Bool) : (selectBranch code pm y e).1 ≤ branchMetric code pm y e x := by
  rw [selectBranch_eq_ite]
  split
  · next h =>
    cases x
    · exact h.le
    · exact le_rfl
  · next h =>
    cases x
    · exact le_rfl
    · exact not_lt.mp h

/-- A tie keeps the predecessor with oldest bit 0. -/
theorem selectBranch_tie {e : Nat} {x : Bool} (h : branchMetric code pm y e x = (selectBranch code pm y e).1) :
    pred code e (selectBranch code pm y e).2 ≤ pred code e x := by
  rw [pred_eq_add, pred_eq_add]
  refine Nat.add_le_add_left ?_ _
  cases x with
  | true => exact Bool.toNat_le _
  | false =>
    have hnot : ¬ branchMetric code pm y e true < branchMetric code pm y e false :=
      not_lt.mpr (h.trans_le (selectBranch_le code pm y e true))
    rw [selectBranch_eq_ite, if_neg hnot]

theorem acs_getD {e : Nat} (he : e < stateCount code) (b : Bool) :
    (acs code pm y).1.getD e 0 = (selectBranch code pm y e).1 ∧ (acs code pm y).2.getD e b = (selectBranch code pm y e).2 := by
  simp [acs, List.getD_eq_getElem?_getD, he]

end Select

/-- A path through one more pair: the branch into its second state, then the path from there under the metrics after the pair
that pays for the branch. -/
theorem pathMetric_pred_cons {code : VitCode} (hk : 2 ≤ code.k) (pm : List Nat) (y : Soft × Soft) (ys : List (Soft × Soft))
    {e : Nat} (he : e < stateCount code) (x : Bool) (msg : List Bool) :
    pathMetric code pm (y :: ys) (pred code e x) (entryBit code e :: msg)
      = branchMetric code pm y e x + symbolsCost ys (encodeFrom code e msg) := by
  rw [pathMetric, encodeFrom_cons hk _ (pred_lt hk e x), stateAfter_pred hk he, symbolsCost_cons, branchMetric, Nat.add_assoc]

theorem pathMetric_acs {code : VitCode} (pm : List Nat) (y : Soft × Soft) (ys : List (Soft × Soft))
    {e : Nat} (he : e < stateCount code) (msg : List Bool) :
    pathMetric code (acs code pm y).1 ys e msg
      = (selectBranch code pm y e).1 + symbolsCost ys (encodeFrom code e msg) := by
  rw [pathMetric, (acs_getD code pm y he false).1]

/-! ## The survivor path of a state (R203, R204) -/

/-- The metrics after a frame. -/
def finalMetrics (code : VitCode) (pm : List Nat) (ys : List (Soft × Soft)) : List Nat := (acsRun code pm ys []).1

/-- The path that the decisions of a frame keep for state `e`: its bits, and its start state. -/
def survivor (code : VitCode) (pm : List Nat) (ys : List (Soft × Soft)) (e : Nat) : List Bool × Nat :=
  traceback code e (acsRun code pm ys []).2 []

/-- Decisions taken before the frame stay behind the frame's own, and do not change its metrics. -/
theorem acsRun_eq_append (code : VitCode) (pm : List Nat) (ys : List (Soft × Soft)) (ds : List (List Bool)) :
    acsRun code pm ys ds = ((acsRun code pm ys []).1, (acsRun code pm ys []).2 ++ ds) := by
  induction ys generalizing pm ds with
  | nil => rfl
  | cons y ys ih =>
    rw [acsRun, acsRun, ih _ (_ :: ds), ih _ [_]]
    simp

theorem traceback_append (code : VitCode) (e : Nat) (ds ds' : List (List Bool)) (bits : List Bool) :
    traceback code e (ds ++ ds') bits = traceback code (traceback code e ds bits).2 ds' (traceback code e ds bits).1 := by
  induction ds generalizing e bits with
  | nil => rfl
  | cons d ds ih => rw [List.cons_append, traceback, ih, traceback]

theorem finalMetrics_cons (code : VitCode) (pm : List Nat) (y : Soft × Soft) (ys : List (Soft × Soft)) :
    finalMetrics code pm (y :: ys) = finalMetrics code (acs code pm y).1 ys := by
  rw [finalMetrics, acsRun, acsRun_eq_append, finalMetrics]

/-- The survivor of a frame is that of its later pairs, one transition back from where that one starts. -/
theorem survivor_cons {code : VitCode} (pm : List Nat) (y : Soft × Soft) (ys : List (Soft × Soft)) {e : Nat}
    {msg : List Bool} {st : Nat} (hst : st < stateCount code) (h : survivor code (acs code pm y).1 ys e = (msg, st)) :
    survivor code pm (y :: ys) e = (entryBit code st :: msg, pred code st (selectBranch code pm y st).2) := by
  rw [survivor] at h
  rw [survivor, acsRun, acsRun_eq_append, traceback_append, h, traceback, traceback, (acs_getD code pm y hst false).2]

theorem finalMetrics_length {code : VitCode} {pm : List Nat} {ys : List (Soft × Soft)} (hys : ys ≠ []) :
    (finalMetrics code pm ys).length = stateCount code := by
  induction ys generalizing pm with
  | nil => exact absurd rfl hys
  | cons y ys ih =>
    rw [finalMetrics_cons]
    cases ys with
    | nil => exact (acs_length code pm y).1
    | cons y' ys => exact ih (List.cons_ne_nil _ _)

theorem finalMetrics_ne_nil {code : VitCode} {pm : List Nat} {ys : List (Soft × Soft)} (hys : ys ≠ []) :
    finalMetrics code pm ys ≠ [] :=
  List.ne_nil_of_length_pos (finalMetrics_length hys ▸ Nat.two_pow_pos _)

/-- What the traceback from state `e` gives: a path into `e` whose metric is that of `e` after the frame. No path into `e` costs
less, and of those that cost no more this one's states, from the final one back, are the least. -/
structure IsSurvivor (code : VitCode) (pm : List Nat) (ys : List (Soft × Soft)) (e st : Nat) (msg : List Bool) : Prop where
  start_lt : st < stateCount code
  length_eq : msg.length = ys.length
  ends : (pathStates code st msg).head? = some e
  metric : pathMetric code pm ys st msg = (finalMetrics code pm ys).getD e 0
  least : ∀ {st' : Nat} {msg' : List Bool}, st' < stateCount code → msg'.length = ys.length →
    (pathStates code st' msg').head? = some e →
      (finalMetrics code pm ys).getD e 0 ≤ pathMetric code pm ys st' msg'
        ∧ (pathMetric code pm ys st' msg' = (finalMetrics code pm ys).getD e 0 →
          pathStates code st msg ≤ pathStates code st' msg')

/-- One pair earlier, the survivor goes back to the selected predecessor of its start state. -/
theorem IsSurvivor.cons {code : VitCode} (hk : 2 ≤ code.k) {pm : List Nat} {y : Soft × Soft} {ys : List (Soft × Soft)}
    {e st : Nat} {msg : List Bool} (h : IsSurvivor code (acs code pm y).1 ys e st msg) :
    IsSurvivor code pm (y :: ys) e (pred code st (selectBranch code pm y st).2) (entryBit code st :: msg) := by
  have hback : ∀ x, stateAfter code (entryBit code st) (pred code st x) = st := stateAfter_pred hk h.start_lt
  refine ⟨pred_lt hk _ _, congrArg (· + 1) h.length_eq, ?_, ?_, ?_⟩
  · rw [pathStates_cons_head?, hback, h.ends]
  · rw [pathMetric_pred_cons hk pm y ys h.start_lt, selectBranch_metric, ← pathMetric_acs pm y ys h.start_lt, h.metric,
      finalMetrics_cons]
  · intro st' msg' hst' hlen' hend'
    cases msg' with
    | nil => simp at hlen'
    | cons u' msg' =>
      have hnext := stateAfter_lt hk u' hst'
      obtain ⟨hu, x, hpred⟩ := entryBit_stateAfter_and_exists_pred hk u' hst'
      rw [pathStates_cons_head?] at hend'
      obtain ⟨hleast, htie⟩ := h.least hnext (Nat.succ.inj hlen') hend'
      have hbranch := selectBranch_le code pm y (stateAfter code u' st') x
      have hsplit := pathMetric_pred_cons hk pm y ys hnext x msg'
      rw [hu, hpred] at hsplit
      rw [pathMetric_acs pm y ys hnext] at hleast htie
      rw [finalMetrics_cons, hsplit]
      refine ⟨hleast.trans (Nat.add_le_add_right hbranch _), fun heq => ?_⟩
      have hlast := htie (by omega)
      rw [pathStates, pathStates, hback]
      refine append_singleton_le (by simp [h.length_eq, Nat.succ.inj hlen']) hlast fun hsame => ?_
      obtain rfl : st = stateAfter code u' st' := by
        simpa [pathStates_getLast?] using congrArg List.getLast? hsame
      calc _ ≤ _ := selectBranch_tie code pm y (x := x) (by omega)
        _ = st' := hpred

/-- The decisions of a frame keep a least-cost path for every state, with the tie rule of R203. -/
theorem isSurvivor_survivor {code : VitCode} (hk : 2 ≤ code.k) (pm : List Nat) (ys : List (Soft × Soft)) {e : Nat}
    (he : e < stateCount code) : IsSurvivor code pm ys e (survivor code pm ys e).2 (survivor code pm ys e).1 := by
  induction ys generalizing pm with
  | nil =>
    refine ⟨he, rfl, rfl, rfl, fun {st' msg'} _ hlen hend => ?_⟩
    obtain rfl := List.length_eq_zero_iff.mp hlen
    obtain rfl : st' = e := Option.some.inj hend
    exact ⟨le_rfl, fun _ => le_rfl⟩
  | cons y ys ih =>
    have h := ih (acs code pm y).1
    rw [survivor_cons pm y ys h.start_lt rfl]
    exact h.cons hk

/-! ## The best final state (R204) and the kept metrics (R206) -/

theorem min?_eq_some_minMetric {l : List Nat} (hl : l ≠ []) : l.min? = some (minMetric l) := by
  cases l with
  | nil => exact absurd rfl hl
  | cons m l => rfl

theorem minMetric_spec {l : List Nat} (hl : l ≠ []) : minMetric l ∈ l ∧ ∀ m ∈ l, minMetric l ≤ m :=
  List.min?_eq_some_iff.mp (min?_eq_some_minMetric hl)

theorem minMetric_le_getD {l : List Nat} {e : Nat} (he : e < l.length) : minMetric l ≤ l.getD e 0 := by
  rw [List.getD_eq_getElem _ _ he]
  exact (minMetric_spec (List.ne_nil_of_length_pos (by omega))).2 _ (List.getElem_mem he)

theorem bestState_spec {l : List Nat} (hl : l ≠ []) :
    bestState l < l.length ∧ l.getD (bestState l) 0 = minMetric l := by
  have hlt : bestState l < l.length := List.idxOf_lt_length_iff.mpr (minMetric_spec hl).1
  exact ⟨hlt, (List.getD_eq_getElem _ _ hlt).trans (List.getElem_idxOf hlt)⟩

theorem bestState_le {l : List Nat} {e : Nat} (he : e < l.length) (h : l.getD e 0 = minMetric l) : bestState l ≤ e := by
  rw [List.getD_eq_getElem _ _ he] at h
  exact le_of_not_gt fun hlt => by simpa [h] using List.not_of_lt_findIdx hlt

theorem normalise_getD_of_lt {l : List Nat} {e : Nat} (he : e < l.length) (m : Nat) :
    (normalise l).getD e m = l.getD e 0 - minMetric l := by
  simp [normalise, List.getD_eq_getElem?_getD, List.getElem?_append_left, he]

theorem normalise_getD_of_le {l : List Nat} {e : Nat} (he : l.length ≤ e) : (normalise l).getD e 0 = 0 := by
  simp only [normalise, List.getD_eq_getElem?_getD]
  rw [List.getElem?_append_right (by simpa using he), List.getElem?_replicate]
  split <;> rfl

/-- A kept metric is the final one less the least of all. -/
theorem minMetric_add_normalise_getD {l : List Nat} {e : Nat} (he : e < l.length) :
    minMetric l + (normalise l).getD e 0 = l.getD e 0 := by
  rw [normalise_getD_of_lt he, Nat.add_sub_cancel' (minMetric_le_getD he)]

/-! ## The decoded path (R204, R208) -/

/-- A path of the least metric after a frame, whose states, from the final one back, are the least among such paths. -/
structure IsBestPath (code : VitCode) (pm : List Nat) (ys : List (Soft × Soft)) (st : Nat) (msg : List Bool) : Prop where
  start_lt : st < stateCount code
  length_eq : msg.length = ys.length
  metric : pathMetric code pm ys st msg = minMetric (finalMetrics code pm ys)
  least : ∀ {st' : Nat} {msg' : List Bool}, st' < stateCount code → msg'.length = ys.length →
    minMetric (finalMetrics code pm ys) ≤ pathMetric code pm ys st' msg'
      ∧ (pathMetric code pm ys st' msg' = minMetric (finalMetrics code pm ys) →
        pathStates code st msg ≤ pathStates code st' msg')

/-- Lists are ordered by their first elements where these differ. -/
theorem le_of_head?_lt {l l' : List Nat} {a a' : Nat} (hl : l.head? = some a) (hl' : l'.head? = some a') (h : a < a') :
    l ≤ l' := by
  obtain ⟨t, rfl⟩ := List.head?_eq_some_iff.mp hl
  obtain ⟨t', rfl⟩ := List.head?_eq_some_iff.mp hl'
  exact le_of_lt (List.Lex.rel h)

/-- The survivor of the smallest best final state is the best path. -/
theorem isBestPath_vitPath {code : VitCode} (hk : 2 ≤ code.k) (pm : List Nat) {z : List Soft} (hz : pairsOf z ≠ []) :
    IsBestPath code pm (pairsOf z) (vitPath code pm z).2 (vitPath code pm z).1 := by
  have hlen := finalMetrics_length (code := code) (pm := pm) hz
  obtain ⟨hbestLt, hbest⟩ := bestState_spec (finalMetrics_ne_nil (code := code) (pm := pm) hz)
  have h := isSurvivor_survivor hk pm (pairsOf z) (hlen ▸ hbestLt)
  refine ⟨h.start_lt, h.length_eq, h.metric.trans hbest, fun {st' msg'} hst' hlen' => ?_⟩
  obtain ⟨e, he, hend⟩ := exists_pathStates_head? hk hst' msg'
  have hlow := minMetric_le_getD (hlen ▸ he : e < (finalMetrics code pm (pairsOf z)).length)
  have hinto := ((isSurvivor_survivor hk pm (pairsOf z) he).least hst' hlen' hend).1
  refine ⟨hlow.trans hinto, fun heq => ?_⟩
  have hattained : (finalMetrics code pm (pairsOf z)).getD e 0 = minMetric (finalMetrics code pm (pairsOf z)) := by omega
  rcases (bestState_le (hlen ▸ he) hattained).lt_or_eq with hlt | rfl
  · exact le_of_head?_lt h.ends hend hlt
  · exact (h.least hst' hlen' hend).2 (heq.trans hattained.symm)

/-! ## `VIT_DECODE` (R208) -/

theorem exec_vitDecode_legalCode {s : State} (hcode : codeLegal (vitCode s.cfg) = true) (z : List Soft) :
    exec (.vitDecode z) s
      = .next
          { s with
            pm := normalise (finalMetrics (vitCode s.cfg) s.pm (pairsOf z))
            answer :=
              .decoded (packBits (vitPath (vitCode s.cfg) s.pm z).1)
                (countDiffering (pairsOf z)
                  (encodeFrom (vitCode s.cfg) (vitPath (vitCode s.cfg) s.pm z).2 (vitPath (vitCode s.cfg) s.pm z).1)) } :=
  congrArg _ (if_pos hcode)

theorem pairsOf_ne_nil {z : List Soft} (hz : z ≠ []) (heven : z.length % 2 = 0) : pairsOf z ≠ [] := by
  have := List.length_pos_iff.mpr hz
  refine List.ne_nil_of_length_pos ?_
  rw [pairsOf_length]
  omega

section Kept
variable {code : VitCode} {pm : List Nat} {ys : List (Soft × Soft)}

/-- R206: the bank keeps its length, and the best final state's metric becomes 0. -/
theorem normalise_finalMetrics_shape (hcode : codeLegal code = true) (hys : ys ≠ []) :
    (normalise (finalMetrics code pm ys)).length = 256
      ∧ ∃ st, st < stateCount code ∧ (normalise (finalMetrics code pm ys)).getD st 1 = 0 := by
  have hlen := finalMetrics_length (code := code) (pm := pm) hys
  obtain ⟨hlt, hbest⟩ := bestState_spec (finalMetrics_ne_nil (code := code) (pm := pm) hys)
  refine ⟨normalise_length (hlen.trans_le (stateCount_le_pmStates hcode)), _, hlen ▸ hlt, ?_⟩
  rw [normalise_getD_of_lt hlt, hbest, Nat.sub_self]

/-- The kept metric of a state with the best path's metric is the least metric of a path into that state. -/
theorem normalise_finalMetrics_spec (hk : 2 ≤ code.k) {st : Nat} {msg : List Bool} (hbest : IsBestPath code pm ys st msg)
    (hys : ys ≠ []) {e : Nat} (he : e < stateCount code) :
    (∃ (st' : Nat) (msg' : List Bool), st' < stateCount code ∧ msg'.length = ys.length
        ∧ (pathStates code st' msg').head? = some e
        ∧ pathMetric code pm ys st' msg' = pathMetric code pm ys st msg + (normalise (finalMetrics code pm ys)).getD e 0)
      ∧ ∀ (st' : Nat) (msg' : List Bool), st' < stateCount code → msg'.length = ys.length →
          (pathStates code st' msg').head? = some e →
            pathMetric code pm ys st msg + (normalise (finalMetrics code pm ys)).getD e 0 ≤ pathMetric code pm ys st' msg' := by
  have hsurvivor := isSurvivor_survivor hk pm ys he
  rw [hbest.metric, minMetric_add_normalise_getD (he.trans_eq (finalMetrics_length hys).symm)]
  exact ⟨⟨_, _, hsurvivor.start_lt, hsurvivor.length_eq, hsurvivor.ends, hsurvivor.metric⟩,
    fun st' msg' hst' hlen' hend => (hsurvivor.least hst' hlen' hend).1⟩

end Kept

/-- Settles O47: the decoded path is the best path, and the kept metrics are those of the survivors less the least. -/
theorem vitDecodeResult : Obligations.VitDecodeResult := by
  intro s z hcode hlen
  have hk := two_le_k_of_codeLegal hcode
  have hpairs := pairsOf_length z
  have hbits := vitPath_length (vitCode s.cfg) s.pm z
  have hbytes := packBits_length (vitPath (vitCode s.cfg) s.pm z).1
  have hne (hz : z ≠ []) : pairsOf z ≠ [] := pairsOf_ne_nil hz (by omega)
  refine ⟨_, _, _, exec_vitDecode_legalCode hcode z, by omega, ?_,
    fun hz => normalise_finalMetrics_shape hcode (hne hz), fun hz => ?_⟩
  · calc _ ≤ 2 * (pairsOf z).length := countDiffering_le _ _
      _ ≤ z.length := by omega
  · intro code states cost
    have hbest := isBestPath_vitPath hk s.pm (hne hz)
    have hcost {st : Nat} {msg : List Bool} (hst : st < states) (hmsg : msg.length = (vitPath (vitCode s.cfg) s.pm z).1.length) :
        cost st msg = pathMetric code s.pm (pairsOf z) st msg := pathCost_eq_pathMetric hcode s.pm hst (by omega)
    have hpath := hcost hbest.start_lt rfl
    refine ⟨_, _, hbest.start_lt, hbits, fun k i hkb hi => ?_, ?_, fun st' msg' hst' hmsg' => ?_, fun e he => ⟨?_, ?_⟩,
      fun e he => normalise_getD_of_le ((finalMetrics_length (hne hz)).trans_le he)⟩
    · rw [← packBits_getMsbD _ (hkb.trans_eq hbytes) hi, BitVec.getMsbD_eq_getLsbD, decide_eq_true hi, Bool.true_and]
    · rw [pathBits_eq_flatMap hcode hbest.start_lt, countDiffering_pairsOf]
      rw [encodeFrom_length]
      omega
    · obtain ⟨hle, htie⟩ := hbest.least hst' (hmsg'.trans hbest.length_eq)
      rw [hpath, hcost hst' hmsg', hbest.metric]
      exact ⟨by exact_mod_cast hle, fun h => htie (by exact_mod_cast h)⟩
    · obtain ⟨⟨st', msg', hst', hmsg', hend, hmetric⟩, -⟩ := normalise_finalMetrics_spec hk hbest (hne hz) he
      rw [← hbest.length_eq] at hmsg'
      exact ⟨st', msg', hst', hmsg', hend, by rw [hpath, hcost hst' hmsg', hmetric, Nat.cast_add]⟩
    · intro st' msg' hst' hmsg' hend
      have hle := (normalise_finalMetrics_spec hk hbest (hne hz) he).2 st' msg' hst' (hmsg'.trans hbest.length_eq) hend
      rw [hpath, hcost hst' hmsg']
      exact_mod_cast hle

/-! ## Clean frames (R209) -/

/-- The hard decisions of a pair. -/
def hardPair (y : Soft × Soft) : Bool × Bool := (hard y.1, hard y.2)

/-- A symbol that differs from the hard decision costs more than the hard decision. -/
theorem cost_hard_lt_cost_not_hard (y : Soft) : cost y (hard y) < cost y (!hard y) := by
  have htrue : (cost y true : Int) = 127 - y.toInt := cost_eq_ite y true
  have hfalse : (cost y false : Int) = y.toInt + 128 := cost_eq_ite y false
  rw [hard_eq_decide]
  by_cases h : 0 ≤ y.toInt
  · rw [decide_eq_true h, Bool.not_true]
    omega
  · rw [decide_eq_false h, Bool.not_false]
    omega

theorem cost_hard_le (y : Soft) (b : Bool) : cost y (hard y) ≤ cost y b ∧ (cost y b ≤ cost y (hard y) → b = hard y) := by
  have hlt := cost_hard_lt_cost_not_hard y
  rcases Bool.eq_or_eq_not b (hard y) with rfl | rfl
  · exact ⟨le_rfl, fun _ => rfl⟩
  · exact ⟨hlt.le, fun hle => absurd hlt (not_lt.mpr hle)⟩

theorem pairCost_hardPair_le (y : Soft × Soft) (r : Bool × Bool) :
    pairCost y (hardPair y) ≤ pairCost y r ∧ (pairCost y r ≤ pairCost y (hardPair y) → r = hardPair y) := by
  obtain ⟨hle1, heq1⟩ := cost_hard_le y.1 r.1
  obtain ⟨hle2, heq2⟩ := cost_hard_le y.2 r.2
  simp only [pairCost, hardPair]
  exact ⟨Nat.add_le_add hle1 hle2, fun h => Prod.ext (heq1 (by omega)) (heq2 (by omega))⟩

/-- The hard decisions are the only symbols of least cost. -/
theorem symbolsCost_hardPairs_le {ys : List (Soft × Soft)} {rs : List (Bool × Bool)} (hlen : rs.length = ys.length) :
    symbolsCost ys (ys.map hardPair) ≤ symbolsCost ys rs
      ∧ (symbolsCost ys rs ≤ symbolsCost ys (ys.map hardPair) → rs = ys.map hardPair) := by
  induction ys generalizing rs with
  | nil =>
    obtain rfl := List.length_eq_zero_iff.mp hlen
    exact ⟨le_rfl, fun _ => rfl⟩
  | cons y ys ih =>
    cases rs with
    | nil => simp at hlen
    | cons r rs =>
      obtain ⟨hle, heq⟩ := pairCost_hardPair_le y r
      obtain ⟨hrest, hrestEq⟩ := ih (Nat.succ.inj hlen)
      rw [List.map_cons, symbolsCost_cons, symbolsCost_cons]
      exact ⟨Nat.add_le_add hle hrest, fun h => by rw [heq (by omega), hrestEq (by omega)]⟩

theorem countDiffering_hardPairs (ys : List (Soft × Soft)) : countDiffering ys (ys.map hardPair) = 0 := by
  induction ys with
  | nil => rfl
  | cons y ys ih => simp [countDiffering, hardPair, ih]

/-- With all metrics 0, a frame whose hard decisions are a path's symbols decodes to a path with those symbols. -/
theorem encodeFrom_vitPath_of_clean {code : VitCode} (hk : 2 ≤ code.k) {pm : List Nat} (hpm : ∀ q, pm.getD q 0 = 0)
    {z : List Soft} (hz : pairsOf z ≠ []) {st : Nat} {msg : List Bool} (hst : st < stateCount code)
    (hlen : msg.length = (pairsOf z).length) (hclean : (pairsOf z).map hardPair = encodeFrom code st msg) :
    encodeFrom code (vitPath code pm z).2 (vitPath code pm z).1 = (pairsOf z).map hardPair := by
  have hbest := isBestPath_vitPath hk pm hz
  have hle := (hbest.least hst hlen).1
  rw [← hbest.metric, pathMetric, pathMetric, hpm, hpm, ← hclean, Nat.zero_add, Nat.zero_add] at hle
  exact (symbolsCost_hardPairs_le (by rw [encodeFrom_length, hbest.length_eq])).2 hle

/-- Settles O48: the hard decisions are the only symbols of least cost, and the premise leaves one path with them. -/
theorem viterbiRecoversCleanFrame : Obligations.ViterbiRecoversCleanFrame := by
  intro s z st msg hcode hpm hst hlen hclean hunique
  have hpairs := pairsOf_length z
  have hbits := vitPath_length (vitCode s.cfg) s.pm z
  refine ⟨normalise (finalMetrics (vitCode s.cfg) s.pm (pairsOf z)), ?_⟩
  rw [exec_vitDecode_legalCode hcode z]
  rcases eq_or_ne (pairsOf z) [] with hz | hz
  · have hnil := List.length_eq_zero_iff.mpr hz
    rw [List.eq_nil_of_length_eq_zero (l := msg) (by omega),
      List.eq_nil_of_length_eq_zero (l := (vitPath (vitCode s.cfg) s.pm z).1) (by omega), hz, countDiffering]
    simp
  · have hk := two_le_k_of_codeLegal hcode
    have hsymbols := encodeFrom_vitPath_of_clean hk hpm hz hst (by omega) hclean
    have hstart := (isBestPath_vitPath hk s.pm hz).start_lt
    obtain ⟨-, hmsg⟩ := hunique _ _ hstart (by omega) (hsymbols.trans hclean)
    rw [hsymbols, hmsg, countDiffering_hardPairs]

end Sys2Proof.Machine
end

section
/-! SUPPORT. Sequences `Σ_j y_j · x_j^i` over a field: what annihilates them, their locator and their evaluator polynomial. The
syndromes of a received word are such a sequence, with one term for each symbol in error (45_reed_solomon.md R227). -/

namespace Sys2Proof.Machine

open Polynomial

section ExponentialSums

variable {F : Type} [Field F] {J : Finset ℕ} {x y : ℕ → F}

/-! ## Annihilating polynomials -/

/-- The sequence `Σ_j y_j · x_j^i` as a power series. -/
noncomputable def expSeries (J : Finset ℕ) (x y : ℕ → F) : PowerSeries F :=
  PowerSeries.mk fun i => ∑ j ∈ J, y j * x j ^ i

theorem coeff_mul_expSeries {P : F[X]} {n : ℕ} (hP : P.natDegree ≤ n) (hx : ∀ j ∈ J, x j ≠ 0) :
    PowerSeries.coeff n ((P : PowerSeries F) * expSeries J x y) = ∑ j ∈ J, y j * P.eval (x j)⁻¹ * x j ^ n := by
  have hterm : ∀ j ∈ J, y j * P.eval (x j)⁻¹ * x j ^ n
      = ∑ k ∈ Finset.range (n + 1), P.coeff k * (y j * x j ^ (n - k)) := by
    intro j hj
    rw [eval_eq_sum_range' (Nat.lt_succ_of_le hP), Finset.mul_sum, Finset.sum_mul]
    refine Finset.sum_congr rfl fun k hk => ?_
    have hk : k ≤ n := Nat.le_of_lt_succ (Finset.mem_range.mp hk)
    rw [pow_sub₀ _ (hx j hj) hk, inv_pow]
    ring
  rw [PowerSeries.coeff_mul, Finset.sum_congr rfl hterm, Finset.sum_comm,
    Finset.Nat.sum_antidiagonal_eq_sum_range_succ_mk]
  simp [expSeries, Finset.mul_sum]

/-- A sum of exponentials that vanishes at as many consecutive places as it has terms has only zero weights (Vandermonde). -/
theorem weights_eq_zero_of_expSum_eq_zero {w : ℕ → F} (hx : ∀ j ∈ J, x j ≠ 0) (hinj : Set.InjOn x J) {m : ℕ}
    (h : ∀ i < J.card, ∑ j ∈ J, w j * x j ^ (m + i) = 0) : ∀ j ∈ J, w j = 0 := by
  obtain ⟨nth⟩ : Nonempty (Fin J.card ≃ J) := ⟨J.equivFin.symm⟩
  have hsum : ∀ i : Fin J.card, ∑ k, (w (nth k) * x (nth k) ^ m) * x (nth k) ^ (i : ℕ) = 0 := by
    intro i
    rw [nth.sum_comp fun j : J => (w j * x j ^ m) * x j ^ (i : ℕ),
      Finset.sum_coe_sort J fun j => (w j * x j ^ m) * x j ^ (i : ℕ), ← h i i.isLt]
    exact Finset.sum_congr rfl fun j _ => by ring
  have hzero := Matrix.eq_zero_of_forall_pow_sum_mul_pow_eq_zero (f := fun k => x (nth k))
    (fun a b hab => nth.injective (Subtype.ext (hinj (nth a).2 (nth b).2 hab))) hsum
  intro j hj
  have hk := congrFun hzero (nth.symm ⟨j, hj⟩)
  simpa [hx j hj] using hk

/-- A polynomial whose product with the series vanishes at as many consecutive places as the series has terms is zero at every
inverse locator. -/
theorem eval_inv_eq_zero_of_coeff_eq_zero (hx : ∀ j ∈ J, x j ≠ 0) (hinj : Set.InjOn x J) (hy : ∀ j ∈ J, y j ≠ 0)
    {P : F[X]} {m : ℕ} (hP : P.natDegree ≤ m)
    (h : ∀ i < J.card, PowerSeries.coeff (m + i) ((P : PowerSeries F) * expSeries J x y) = 0) : ∀ j ∈ J, P.eval (x j)⁻¹ = 0 := by
  have hweights := weights_eq_zero_of_expSum_eq_zero hx hinj (m := m) (w := fun j => y j * P.eval (x j)⁻¹)
    fun i hi => by rw [← coeff_mul_expSeries (hP.trans (Nat.le_add_right m i)) hx, h i hi]
  exact fun j hj => (mul_eq_zero.mp (hweights j hj)).resolve_left (hy j hj)

/-! ## The locator polynomial -/

/-- `Π_j (1 - x_j · X)`. -/
noncomputable def locatorPoly (J : Finset ℕ) (x : ℕ → F) : F[X] := ∏ j ∈ J, (1 - C (x j) * X)

theorem natDegree_locatorPoly_le (J : Finset ℕ) (x : ℕ → F) : (locatorPoly J x).natDegree ≤ J.card := by
  refine (natDegree_prod_le J _).trans ((Finset.sum_le_card_nsmul J _ 1 fun j _ => ?_).trans (by simp))
  compute_degree

theorem natDegree_locatorPoly (hx : ∀ j ∈ J, x j ≠ 0) : (locatorPoly J x).natDegree = J.card := by
  have hfactor : ∀ j ∈ J, (1 - C (x j) * X).natDegree = 1 := by
    intro j hj
    have := hx j hj
    compute_degree!
  rw [locatorPoly, natDegree_prod _ _ fun j hj => ne_zero_of_natDegree_gt (hfactor j hj ▸ one_pos),
    Finset.sum_congr rfl hfactor, Finset.card_eq_sum_ones]

@[simp] theorem eval_locatorPoly (J : Finset ℕ) (x : ℕ → F) (t : F) :
    (locatorPoly J x).eval t = ∏ j ∈ J, (1 - x j * t) := by
  simp [locatorPoly, eval_prod]

theorem eval_locatorPoly_eq_zero_iff {t : F} : (locatorPoly J x).eval t = 0 ↔ ∃ j ∈ J, x j * t = 1 := by
  simp only [eval_locatorPoly, Finset.prod_eq_zero_iff, sub_eq_zero, @eq_comm _ (1 : F)]

/-- The locator is the only polynomial of its degree with its roots and constant coefficient 1. -/
theorem eq_locatorPoly (hx : ∀ j ∈ J, x j ≠ 0) (hinj : Set.InjOn x J) {P : F[X]} (hdeg : P.natDegree ≤ J.card)
    (hzero : P.coeff 0 = 1) (hroots : ∀ j ∈ J, P.eval (x j)⁻¹ = 0) : P = locatorPoly J x := by
  classical
  have hinv : Set.InjOn (fun j => (x j)⁻¹) J := fun a ha b hb hab => hinj ha hb (inv_injective hab)
  have hnot : (0 : F) ∉ J.image fun j => (x j)⁻¹ := by simpa using hx
  have hcard : (insert 0 (J.image fun j => (x j)⁻¹)).card = J.card + 1 := by
    rw [Finset.card_insert_of_notMem hnot, Finset.card_image_of_injOn hinv]
  have hlt : ∀ Q : F[X], Q.natDegree ≤ J.card → Q.degree < (insert 0 (J.image fun j => (x j)⁻¹)).card := by
    intro Q hQ
    rw [hcard]
    exact degree_le_natDegree.trans_lt (by exact_mod_cast Nat.lt_succ_of_le hQ)
  refine eq_of_degrees_lt_of_eval_finset_eq _ (hlt P hdeg) (hlt _ (natDegree_locatorPoly_le J x)) fun t ht => ?_
  rcases Finset.mem_insert.mp ht with rfl | ht
  · rw [← coeff_zero_eq_eval_zero, hzero]
    simp
  · obtain ⟨j, hj, rfl⟩ := Finset.mem_image.mp ht
    rw [hroots j hj, eval_locatorPoly_eq_zero_iff.mpr ⟨j, hj, mul_inv_cancel₀ (hx j hj)⟩]

/-! ## The evaluator polynomial -/

/-- `Σ_j y_j · Π_(k ≠ j) (1 - x_k · X)`. -/
noncomputable def evaluatorPoly (J : Finset ℕ) (x y : ℕ → F) : F[X] := ∑ j ∈ J, C (y j) * locatorPoly (J.erase j) x

theorem one_sub_mul_geometric (a : F) : ((1 - C a * X : F[X]) : PowerSeries F) * PowerSeries.mk (fun i => a ^ i) = 1 := by
  ext n
  cases n with
  | zero => simp
  | succ n =>
    simp [sub_mul, mul_assoc, PowerSeries.coeff_succ_X_mul, PowerSeries.coeff_C_mul, PowerSeries.coeff_one, pow_succ']

/-- Locator times series is the evaluator. -/
theorem locatorPoly_mul_expSeries (J : Finset ℕ) (x y : ℕ → F) :
    (locatorPoly J x : PowerSeries F) * expSeries J x y = evaluatorPoly J x y := by
  have hseries : expSeries J x y = ∑ j ∈ J, PowerSeries.C (y j) * PowerSeries.mk fun i => x j ^ i := by
    ext n
    simp [expSeries, PowerSeries.coeff_C_mul]
  have hcoe : (evaluatorPoly J x y : PowerSeries F)
      = ∑ j ∈ J, PowerSeries.C (y j) * (locatorPoly (J.erase j) x : PowerSeries F) := by
    rw [evaluatorPoly, ← coeToPowerSeries.ringHom_apply, map_sum]
    simp
  rw [hseries, hcoe, Finset.mul_sum]
  refine Finset.sum_congr rfl fun j hj => ?_
  rw [locatorPoly, ← Finset.mul_prod_erase J _ hj, ← locatorPoly, coe_mul]
  linear_combination (PowerSeries.C (y j) * (locatorPoly (J.erase j) x : PowerSeries F)) * one_sub_mul_geometric (x j)

theorem coeff_evaluatorPoly_of_card_le {i : ℕ} (hi : J.card ≤ i) : (evaluatorPoly J x y).coeff i = 0 := by
  rw [evaluatorPoly, finsetSum_coeff]
  refine Finset.sum_eq_zero fun j hj => ?_
  have hdeg := natDegree_locatorPoly_le (J.erase j) x
  have hcard := Finset.card_erase_lt_of_mem hj
  rw [coeff_C_mul, coeff_eq_zero_of_natDegree_lt (by omega), mul_zero]

theorem locatorPoly_erase_eval_ne_zero (hinj : Set.InjOn x J) {j : ℕ} (hj : j ∈ J) :
    (locatorPoly (J.erase j) x).eval (x j)⁻¹ ≠ 0 := by
  rw [Ne, eval_locatorPoly_eq_zero_iff]
  rintro ⟨k, hk, hone⟩
  obtain ⟨hne, hk⟩ := Finset.mem_erase.mp hk
  exact hne (hinj hk hj (eq_of_mul_inv_eq_one hone))

theorem eval_evaluatorPoly (hx : ∀ j ∈ J, x j ≠ 0) {j : ℕ} (hj : j ∈ J) :
    (evaluatorPoly J x y).eval (x j)⁻¹ = y j * (locatorPoly (J.erase j) x).eval (x j)⁻¹ := by
  rw [evaluatorPoly, eval_finsetSum, Finset.sum_eq_single_of_mem j hj, eval_mul, eval_C]
  intro k _ hk
  rw [eval_mul, eval_locatorPoly_eq_zero_iff.mpr ⟨j, Finset.mem_erase.mpr ⟨hk.symm, hj⟩, mul_inv_cancel₀ (hx j hj)⟩,
    mul_zero]

theorem eval_derivative_locatorPoly (hx : ∀ j ∈ J, x j ≠ 0) {j : ℕ} (hj : j ∈ J) :
    (derivative (locatorPoly J x)).eval (x j)⁻¹ = -x j * (locatorPoly (J.erase j) x).eval (x j)⁻¹ := by
  rw [locatorPoly, ← Finset.mul_prod_erase J _ hj, ← locatorPoly]
  simp [hx j hj]

theorem eval_derivative_locatorPoly_ne_zero (hx : ∀ j ∈ J, x j ≠ 0) (hinj : Set.InjOn x J) {j : ℕ} (hj : j ∈ J) :
    (derivative (locatorPoly J x)).eval (x j)⁻¹ ≠ 0 := by
  rw [eval_derivative_locatorPoly hx hj]
  exact mul_ne_zero (neg_ne_zero.mpr (hx j hj)) (locatorPoly_erase_eval_ne_zero hinj hj)

/-- Forney's formula: the evaluator over the locator's derivative gives a term's weight. -/
theorem eval_evaluatorPoly_div_derivative (hx : ∀ j ∈ J, x j ≠ 0) (hinj : Set.InjOn x J) {j : ℕ} (hj : j ∈ J) :
    (evaluatorPoly J x y).eval (x j)⁻¹ * ((derivative (locatorPoly J x)).eval (x j)⁻¹)⁻¹ = -(y j * (x j)⁻¹) := by
  have hne := locatorPoly_erase_eval_ne_zero hinj hj
  rw [eval_evaluatorPoly hx hj, eval_derivative_locatorPoly hx hj, mul_inv, inv_neg]
  linear_combination (-(y j * (x j)⁻¹)) * mul_inv_cancel₀ hne

end ExponentialSums

end Sys2Proof.Machine
end

section
/-! SUPPORT. GF(256) read into a field: bytes under `⊕` and `gmul` (45_reed_solomon.md R220, R221), the powers of `β` (R223),
and byte lists as polynomials. -/

namespace Sys2Proof.Machine

open Polynomial

/-! ## Reading bytes in a field -/

/-- A reading of bytes in a field that takes `⊕` to addition and `gmul` to multiplication (R220). -/
structure ByteReading (F : Type) [Field F] where
  /-- the field element a byte stands for -/
  val : Byte → F
  /-- addition -/
  val_xor : ∀ a b, val (a ^^^ b) = val a + val b
  /-- multiplication -/
  val_gmul : ∀ a b, val (gmul a b) = val a * val b
  /-- one -/
  val_one : val 1 = 1

/-- Bit `i` of a byte as a field element. -/
def bitValue {F : Type} [Field F] (a : Byte) (i : ℕ) : F := if a.getLsbD i then 1 else 0

/-- `Σ b_i α^i` (R220). -/
def powerSum {F : Type} [Field F] (α : F) (a : Byte) : F := ∑ i ∈ Finset.range 8, bitValue a i * α ^ i

section PowerSum

variable {F : Type} [Field F] {α : F}

theorem bitValue_xor [CharP F 2] (a b : Byte) (i : ℕ) : (bitValue (a ^^^ b) i : F) = bitValue a i + bitValue b i := by
  have htwo : (1 : F) + 1 = 0 := CharTwo.add_self_eq_zero 1
  cases ha : a.getLsbD i <;> cases hb : b.getLsbD i <;> simp [bitValue, ha, hb, htwo]

theorem powerSum_xor [CharP F 2] (a b : Byte) : powerSum α (a ^^^ b) = powerSum α a + powerSum α b := by
  simp only [powerSum, bitValue_xor, add_mul, Finset.sum_add_distrib]

theorem powerSum_one : powerSum α 1 = 1 := by
  simp [powerSum, bitValue]

theorem powerSum_shiftLeft (a : Byte) : powerSum α (a <<< 1) = α * powerSum α a - bitValue a 7 * α ^ 8 := by
  have hlow : bitValue (F := F) (a <<< 1) 0 = 0 := by simp [bitValue]
  have hhigh : ∀ i ∈ Finset.range 7, bitValue (a <<< 1) (i + 1) * α ^ (i + 1) = α * (bitValue a i * α ^ i) := by
    intro i hi
    have hi : i < 7 := Finset.mem_range.mp hi
    have hbit : bitValue (F := F) (a <<< 1) (i + 1) = bitValue a i := by
      simp only [bitValue, BitVec.getLsbD_shiftLeft, show i + 1 < 8 by omega]
      simp
    rw [hbit]
    ring
  rw [powerSum, powerSum, Finset.sum_range_succ', Finset.sum_range_succ _ 7, hlow, Finset.sum_congr rfl hhigh, ← Finset.mul_sum]
  ring

theorem powerSum_xtime [CharP F 2] (hα : α ^ 8 = α ^ 7 + α ^ 2 + α + 1) (a : Byte) :
    powerSum α (xtime a) = α * powerSum α a := by
  have hreduce : powerSum α (if a.msb then 0x87 else 0) = bitValue a 7 * α ^ 8 := by
    rw [hα, BitVec.msb_eq_getLsbD_last, bitValue]
    cases a.getLsbD 7
    · simp [powerSum, bitValue]
    · simp [powerSum, Finset.sum_range_succ, bitValue]
      ring
  rw [xtime, powerSum_xor, powerSum_shiftLeft, hreduce, sub_add_cancel]

theorem powerSum_gmul [CharP F 2] (hα : α ^ 8 = α ^ 7 + α ^ 2 + α + 1) (a b : Byte) :
    powerSum α (gmul a b) = powerSum α a * powerSum α b := by
  have hterm : ∀ i, powerSum α (if b.getLsbD i then a else 0) = bitValue b i * powerSum α a := by
    intro i
    cases hi : b.getLsbD i <;> simp [bitValue, powerSum, hi]
  have hzero : powerSum α 0 = 0 := by simp [powerSum, bitValue]
  simp only [gmul_eq, List.foldl_cons, List.foldl_nil, powerSum_xor, powerSum_xtime hα, hterm, hzero]
  simp only [powerSum, Finset.sum_range_succ, Finset.sum_range_zero]
  ring

end PowerSum

/-- GF(256) reads into a field: the algebraic closure of GF(2) holds a root of `p(x) = x^8 + x^7 + x^2 + x + 1`. -/
theorem exists_byteReading : ∃ (F : Type) (_ : Field F), Nonempty (ByteReading F) := by
  have hchar : CharP (AlgebraicClosure (ZMod 2)) 2 :=
    charP_of_injective_algebraMap (algebraMap (ZMod 2) (AlgebraicClosure (ZMod 2))).injective 2
  have hdegree : (X ^ 8 - (X ^ 7 + X ^ 2 + X + 1) : (AlgebraicClosure (ZMod 2))[X]).degree = 8 := by compute_degree!
  obtain ⟨α, hroot⟩ := IsAlgClosed.exists_root _ (hdegree ▸ (by decide : (8 : WithBot ℕ) ≠ 0))
  have hα : α ^ 8 = α ^ 7 + α ^ 2 + α + 1 := by simpa [IsRoot, sub_eq_zero] using hroot
  exact ⟨_, _, ⟨⟨powerSum α, powerSum_xor, powerSum_gmul hα, powerSum_one⟩⟩⟩

/-! ## The tables of R221 -/

theorem expTable_length : expTable.length = 255 := by decide +kernel

theorem expTable_succ : expTable.tail = expTable.dropLast.map xtime := by decide +kernel

theorem gexp_succ {i : ℕ} (hi : i < 254) : gexp (i + 1) = xtime (gexp i) := by
  have hrow := congrArg (fun t => t.getD i 0) expTable_succ
  simpa [gexp, List.getD_eq_getElem?_getD, List.getElem?_dropLast, expTable_length, hi, show i + 1 < 255 by omega,
    show i < 255 by omega] using hrow

theorem mem_expTable {a : Byte} (ha : a ≠ 0) : a ∈ expTable := by
  have hall : ∀ b : Byte, b ≠ 0 → expTable.any (fun c => c.toNat.beq b.toNat) := by decide +kernel
  obtain ⟨c, hc, heq⟩ := List.any_eq_true.mp (hall a ha)
  rwa [← BitVec.eq_of_toNat_eq (Nat.eq_of_beq_eq_true heq)]

theorem gexp_glog {a : Byte} (ha : a ≠ 0) : gexp (glog a) = a := by
  have hlt : expTable.idxOf a < expTable.length := List.idxOf_lt_length_iff.mpr (mem_expTable ha)
  rw [gexp, glog, List.getD_eq_getElem _ _ hlt, List.getElem_idxOf]

theorem glog_lt {a : Byte} (ha : a ≠ 0) : glog a < 255 :=
  expTable_length ▸ List.idxOf_lt_length_iff.mpr (mem_expTable ha)

theorem gmul_two (a : Byte) : gmul a 2 = xtime a := by simp [gmul_eq, xtime]

namespace ByteReading

variable {F : Type} [Field F] (φ : ByteReading F)

@[simp] theorem val_zero : φ.val 0#8 = 0 := by
  have h := φ.val_xor 0#8 0#8
  rwa [BitVec.xor_self, left_eq_add] at h

theorem add_self (a : Byte) : φ.val a + φ.val a = 0 := by
  rw [← φ.val_xor, BitVec.xor_self, φ.val_zero]

include φ in
theorem charTwo : CharP F 2 := by
  have htwo := φ.add_self 1
  rw [φ.val_one, one_add_one_eq_two] at htwo
  exact CharTwo.of_one_ne_zero_of_two_eq_zero one_ne_zero htwo

/-! ### Powers of `α` -/

/-- `α = x` as a field element (R220). -/
def alpha : F := φ.val 2

theorem val_xtime (a : Byte) : φ.val (xtime a) = φ.val a * φ.alpha := by
  rw [← gmul_two, φ.val_gmul, alpha]

theorem val_gexp {i : ℕ} (hi : i < 255) : φ.val (gexp i) = φ.alpha ^ i := by
  induction i with
  | zero => exact φ.val_one.trans (pow_zero _).symm
  | succ i ih => rw [gexp_succ (by omega), φ.val_xtime, ih (by omega), pow_succ]

theorem alpha_pow_order : φ.alpha ^ 255 = 1 := by
  rw [pow_succ, ← φ.val_gexp (by omega), ← φ.val_xtime, ← φ.val_one]
  exact congrArg φ.val (by decide +kernel)

theorem val_gexp_mod (i : ℕ) : φ.val (gexp (i % 255)) = φ.alpha ^ i := by
  rw [φ.val_gexp (Nat.mod_lt i (by decide)), ← pow_eq_pow_mod i φ.alpha_pow_order]

/-! ### Inverses -/

theorem val_mul_val_ginv {a : Byte} (ha : a ≠ 0) : φ.val a * φ.val (ginv a) = 1 := by
  have hlog : glog a + (255 - glog a) = 255 := by have := glog_lt ha; omega
  calc φ.val a * φ.val (ginv a) = φ.alpha ^ glog a * φ.alpha ^ (255 - glog a) := by
        rw [ginv, φ.val_gexp_mod, ← φ.val_gexp (glog_lt ha), gexp_glog ha]
    _ = 1 := by rw [← pow_add, hlog, φ.alpha_pow_order]

theorem val_eq_zero_iff {a : Byte} : φ.val a = 0 ↔ a = 0 := by
  refine ⟨fun h => ?_, fun h => by simp [h]⟩
  by_contra ha
  have hone := φ.val_mul_val_ginv ha
  rw [h, zero_mul] at hone
  exact zero_ne_one hone

theorem val_ginv {a : Byte} (ha : a ≠ 0) : φ.val (ginv a) = (φ.val a)⁻¹ :=
  eq_inv_of_mul_eq_one_right (φ.val_mul_val_ginv ha)

theorem val_injective : Function.Injective φ.val := by
  intro a b h
  have hxor : φ.val (a ^^^ b) = 0 := by rw [φ.val_xor, h, φ.add_self]
  exact BitVec.xor_eq_zero_iff.mp (φ.val_eq_zero_iff.mp hxor)

/-! ### Powers of `β` (R223) -/

/-- `β = α^11` as a field element. -/
def beta : F := φ.alpha ^ 11

@[simp] theorem val_betaPow (e : ℕ) : φ.val (betaPow e) = φ.beta ^ e := by
  rw [betaPow, φ.val_gexp_mod, beta, pow_mul]

theorem beta_pow_order : φ.beta ^ 255 = 1 := by
  rw [beta, ← pow_mul, mul_comm, pow_mul, φ.alpha_pow_order, one_pow]

/-- `β` has order 255. -/
theorem orderOf_beta : orderOf φ.beta = 255 := by
  have hne : ∀ e, betaPow e ≠ 1 → φ.beta ^ e ≠ 1 := fun e he h =>
    he (φ.val_injective (by rw [φ.val_betaPow, h, φ.val_one]))
  refine orderOf_eq_of_pow_and_pow_div_prime (by decide) φ.beta_pow_order fun p hp hdvd => ?_
  have hmem : p ∈ Nat.primeFactors 255 := Nat.mem_primeFactors.mpr ⟨hp, hdvd, by decide⟩
  rw [show Nat.primeFactors 255 = {3, 5, 17} by decide +kernel] at hmem
  simp only [Finset.mem_insert, Finset.mem_singleton] at hmem
  rcases hmem with rfl | rfl | rfl <;> exact hne _ (by decide +kernel)

theorem beta_ne_zero : φ.beta ≠ 0 := by
  intro h
  have horder := φ.orderOf_beta
  rw [h, orderOf_zero] at horder
  exact absurd horder (by decide)

theorem beta_pow_injOn {i j : ℕ} (hi : i < 255) (hj : j < 255) (h : φ.beta ^ i = φ.beta ^ j) : i = j :=
  pow_injOn_Iio_orderOf (by simpa [φ.orderOf_beta] using hi) (by simpa [φ.orderOf_beta] using hj) h

/-! ## Byte lists as polynomials, lowest coefficient first -/

/-- The polynomial a list of coefficients stands for. -/
noncomputable def poly : List Byte → F[X]
  | [] => 0
  | a :: p => C (φ.val a) + X * poly p

@[simp] theorem poly_nil : φ.poly [] = 0 := rfl

@[simp] theorem poly_cons (a : Byte) (p : List Byte) : φ.poly (a :: p) = C (φ.val a) + X * φ.poly p := rfl

theorem poly_zero_cons (p : List Byte) : φ.poly (0 :: p) = X * φ.poly p := by simp

@[simp] theorem coeff_poly (p : List Byte) (i : ℕ) : (φ.poly p).coeff i = φ.val (p.getD i 0) := by
  induction p generalizing i with
  | nil => simp
  | cons a p ih =>
    cases i with
    | zero => simp
    | succ i => simp [ih]

@[simp] theorem poly_polyAdd (p q : List Byte) : φ.poly (polyAdd p q) = φ.poly p + φ.poly q := by
  induction p generalizing q with
  | nil => simp [polyAdd]
  | cons a p ih =>
    cases q with
    | nil => simp [polyAdd]
    | cons b q =>
      simp only [polyAdd, poly_cons, ih, φ.val_xor, C_add]
      ring

@[simp] theorem poly_polyScale (k : Byte) (p : List Byte) : φ.poly (polyScale k p) = C (φ.val k) * φ.poly p := by
  induction p with
  | nil => simp [polyScale]
  | cons a p ih =>
    rw [polyScale] at ih
    simp only [polyScale, List.map_cons, poly_cons, ih, φ.val_gmul, C_mul]
    ring

@[simp] theorem poly_polyShift (m : ℕ) (p : List Byte) : φ.poly (polyShift m p) = X ^ m * φ.poly p := by
  induction m with
  | zero => simp [polyShift]
  | succ m ih =>
    rw [polyShift] at ih
    simp only [polyShift, List.replicate_succ, List.cons_append, poly_zero_cons, ih]
    ring

@[simp] theorem poly_polyMul (p q : List Byte) : φ.poly (polyMul p q) = φ.poly p * φ.poly q := by
  induction p with
  | nil => simp [polyMul]
  | cons a p ih =>
    simp only [polyMul, poly_polyAdd, poly_polyScale, poly_polyShift, poly_cons, ih]
    ring

@[simp] theorem val_polyEval (p : List Byte) (t : Byte) : φ.val (polyEval p t) = (φ.poly p).eval (φ.val t) := by
  induction p with
  | nil => simp [polyEval]
  | cons a p ih =>
    rw [polyEval] at ih
    rw [polyEval, List.foldr_cons, φ.val_xor, φ.val_gmul, ih]
    simp

@[simp] theorem poly_polyDeriv (p : List Byte) : φ.poly (polyDeriv p) = derivative (φ.poly p) := by
  have htwo : ∀ q : F[X], X * q + X * q = 0 := fun q => by
    have := charTwo φ
    exact CharTwo.add_self_eq_zero _
  induction p using polyDeriv.induct with
  | case1 b a rest ih =>
    rw [polyDeriv, poly_cons, poly_zero_cons, ih]
    simp only [poly_cons, derivative_add, derivative_mul, derivative_X, derivative_C]
    linear_combination -htwo (φ.poly rest)
  | case2 p h =>
    match p, h with
    | [], _ => simp [polyDeriv]
    | [a], _ => simp [polyDeriv]
    | b :: a :: rest, h => exact absurd rfl (h b a rest)

end ByteReading

end Sys2Proof.Machine
end

section
/-! SUPPORT. Berlekamp-Massey (45_reed_solomon.md R229): what every step keeps, and the locator it finds for syndromes with at
most as many terms as half their number. -/

namespace Sys2Proof.Machine

open Polynomial

section BerlekampMassey

variable {F : Type} [Field F] (φ : ByteReading F) (s : ℕ → Byte)

/-- `s_(n-1), …, s_0`: the syndromes before index `n`, latest first. -/
def latest : ℕ → List Byte
  | 0 => []
  | n + 1 => s n :: latest n

/-- The syndromes as a power series. -/
noncomputable def syndromeSeries : PowerSeries F := PowerSeries.mk fun i => φ.val (s i)

/-- The discrepancy is a coefficient of the product with the syndromes. -/
theorem val_dot_latest (p : List Byte) (n : ℕ) :
    φ.val (dot p (latest s (n + 1))) = PowerSeries.coeff n ((φ.poly p : PowerSeries F) * syndromeSeries φ s) := by
  induction p generalizing n with
  | nil => simp [dot]
  | cons a p ih =>
    have hsplit : ((φ.poly (a :: p) : F[X]) : PowerSeries F) * syndromeSeries φ s
        = PowerSeries.C (φ.val a) * syndromeSeries φ s
          + PowerSeries.X * ((φ.poly p : PowerSeries F) * syndromeSeries φ s) := by
      simp only [ByteReading.poly_cons, coe_add, coe_mul, coe_C, coe_X]
      ring
    rw [latest, dot, φ.val_xor, φ.val_gmul, hsplit, map_add, PowerSeries.coeff_C_mul]
    cases n with
    | zero => cases p <;> simp [latest, dot, syndromeSeries]
    | succ n => rw [ih, PowerSeries.coeff_succ_X_mul, syndromeSeries, PowerSeries.coeff_mk]

/-- What Berlekamp-Massey keeps before syndrome index `n`, with `C` the current locator and `B` the one before, moved up by the
gap: `C · S` vanishes from `len` on below `n`; so does `B · S` from `n + 1 - len` on, and at `n` it is the kept discrepancy. -/
structure BmInv (n : ℕ) (b : BmState) : Prop where
  /-- the length has not passed the index -/
  len_le : b.len ≤ n
  /-- the gap is not empty -/
  gap_pos : 0 < b.gap
  /-- the kept discrepancy can be divided by -/
  disc_ne : b.disc ≠ 0
  /-- `C(0) = 1` -/
  cur_zero : (φ.poly b.cur).coeff 0 = 1
  /-- `C` fits its length -/
  cur_deg : (φ.poly b.cur).natDegree ≤ b.len
  /-- `C` generates the syndromes before `n` -/
  cur_coeff : ∀ i, b.len ≤ i → i < n → PowerSeries.coeff i ((φ.poly b.cur : PowerSeries F) * syndromeSeries φ s) = 0
  /-- `B` fits the length that a change would give -/
  prev_deg : (X ^ b.gap * φ.poly b.prev).natDegree ≤ n + 1 - b.len
  /-- `B` generates the syndromes before `n` and fails at `n` by the kept discrepancy -/
  prev_coeff : ∀ i, n + 1 - b.len ≤ i → i ≤ n →
    PowerSeries.coeff i (((X ^ b.gap * φ.poly b.prev : F[X]) : PowerSeries F) * syndromeSeries φ s)
      = if i = n then φ.val b.disc else 0

/-- The state in which `locator` starts. -/
def bmStart : BmState := { cur := [1], prev := [1], len := 0, gap := 1, disc := 1 }

theorem bmInv_bmStart : BmInv φ s 0 bmStart where
  len_le := le_rfl
  gap_pos := one_pos
  disc_ne := by decide
  cur_zero := by rw [φ.coeff_poly]; exact φ.val_one
  cur_deg := by simp [bmStart]
  cur_coeff := fun i _ hi => absurd hi (Nat.not_lt_zero i)
  prev_deg := by simpa [bmStart] using natDegree_C_mul_le (φ.val 1) X
  prev_coeff := fun i hi hi' => by simp [bmStart] at hi; omega

section Step

variable {φ s} {n : ℕ} {b : BmState}

/-- The locator that corrects a discrepancy `d`. -/
def bmNext (d : Byte) (b : BmState) : List Byte :=
  polyAdd b.cur (polyShift b.gap (polyScale (gmul d (ginv b.disc)) b.prev))

theorem bmStep_cases (n : ℕ) (seen : List Byte) (b : BmState) :
    (dot b.cur seen = 0 ∧ bmStep n seen b = { b with gap := b.gap + 1 })
      ∨ (dot b.cur seen ≠ 0 ∧ 2 * b.len ≤ n
        ∧ bmStep n seen b
          = { cur := bmNext (dot b.cur seen) b, prev := b.cur, len := n + 1 - b.len, gap := 1, disc := dot b.cur seen })
      ∨ (dot b.cur seen ≠ 0 ∧ n < 2 * b.len
        ∧ bmStep n seen b = { b with cur := bmNext (dot b.cur seen) b, gap := b.gap + 1 }) := by
  unfold bmStep bmNext
  by_cases hd : dot b.cur seen = 0
  · exact .inl ⟨hd, if_pos hd⟩
  · rcases Nat.lt_or_ge n (2 * b.len) with hlen | hlen
    · exact .inr (.inr ⟨hd, hlen, by rw [if_neg hd, if_neg (Nat.not_le.mpr hlen)]⟩)
    · exact .inr (.inl ⟨hd, hlen, by rw [if_neg hd, if_pos hlen]⟩)

theorem poly_bmNext (d : Byte) :
    φ.poly (bmNext d b) = φ.poly b.cur + C (φ.val (gmul d (ginv b.disc))) * (X ^ b.gap * φ.poly b.prev) := by
  simp only [bmNext, ByteReading.poly_polyAdd, ByteReading.poly_polyShift, ByteReading.poly_polyScale]
  ring

theorem BmInv.bmNext_zero (h : BmInv φ s n b) (d : Byte) : (φ.poly (bmNext d b)).coeff 0 = 1 := by
  rw [poly_bmNext, coeff_add, coeff_C_mul, coeff_X_pow_mul', if_neg (by have := h.gap_pos; omega), mul_zero, add_zero,
    h.cur_zero]

theorem BmInv.bmNext_deg (h : BmInv φ s n b) (d : Byte) :
    (φ.poly (bmNext d b)).natDegree ≤ max b.len (n + 1 - b.len) := by
  rw [poly_bmNext]
  exact natDegree_add_le_of_degree_le (h.cur_deg.trans (le_max_left _ _))
    ((natDegree_C_mul_le _ _).trans (h.prev_deg.trans (le_max_right _ _)))

/-- The corrected locator generates one syndrome more. -/
theorem BmInv.bmNext_coeff (h : BmInv φ s n b) {i : ℕ} (hi : max b.len (n + 1 - b.len) ≤ i) (hn : i < n + 1) :
    PowerSeries.coeff i ((φ.poly (bmNext (dot b.cur (latest s (n + 1))) b) : PowerSeries F) * syndromeSeries φ s) = 0 := by
  obtain ⟨hlen, hrest⟩ := max_le_iff.mp hi
  rw [poly_bmNext, coe_add, coe_mul, coe_C, add_mul, mul_assoc, map_add, PowerSeries.coeff_C_mul,
    h.prev_coeff i hrest (Nat.le_of_lt_succ hn)]
  rcases eq_or_ne i n with rfl | hne
  · rw [if_pos rfl, ← val_dot_latest, φ.val_gmul, mul_assoc, mul_comm (φ.val (ginv b.disc)), φ.val_mul_val_ginv h.disc_ne,
      mul_one, φ.add_self]
  · rw [if_neg hne, h.cur_coeff i hlen (by omega), mul_zero, add_zero]

theorem natDegree_X_mul_le_succ {P : F[X]} {k : ℕ} (hP : P.natDegree ≤ k) : (X * P).natDegree ≤ k + 1 :=
  natDegree_mul_le.trans (by rw [natDegree_X]; omega)

/-- The earlier locator after a step without change of length. -/
theorem BmInv.prev_succ (h : BmInv φ s n b) :
    (X ^ (b.gap + 1) * φ.poly b.prev).natDegree ≤ n + 1 + 1 - b.len
      ∧ ∀ i, n + 1 + 1 - b.len ≤ i → i ≤ n + 1 →
        PowerSeries.coeff i (((X ^ (b.gap + 1) * φ.poly b.prev : F[X]) : PowerSeries F) * syndromeSeries φ s)
          = if i = n + 1 then φ.val b.disc else 0 := by
  have hlen := h.len_le
  have hmul : X ^ (b.gap + 1) * φ.poly b.prev = X * (X ^ b.gap * φ.poly b.prev) := by ring
  rw [hmul]
  refine ⟨(natDegree_X_mul_le_succ h.prev_deg).trans (by omega), fun i hi hn => ?_⟩
  obtain ⟨i, rfl⟩ : ∃ k, i = k + 1 := ⟨i - 1, by omega⟩
  rw [coe_mul, coe_X, mul_assoc, PowerSeries.coeff_succ_X_mul, h.prev_coeff i (by omega) (by omega)]
  simp

/-- Every step keeps the invariant. -/
theorem BmInv.step (h : BmInv φ s n b) : BmInv φ s (n + 1) (bmStep n (latest s (n + 1)) b) := by
  have hlen := h.len_le
  obtain ⟨hprevDeg, hprevCoeff⟩ := h.prev_succ
  rcases bmStep_cases n (latest s (n + 1)) b with ⟨hd, hstep⟩ | ⟨hd, hle, hstep⟩ | ⟨hd, hlt, hstep⟩ <;> rw [hstep]
  · refine ⟨by dsimp only; omega, Nat.succ_pos _, h.disc_ne, h.cur_zero, h.cur_deg, fun i hi hn => ?_, hprevDeg, hprevCoeff⟩
    rcases Nat.lt_succ_iff_lt_or_eq.mp hn with hn | rfl
    · exact h.cur_coeff i hi hn
    · rw [← val_dot_latest]
      exact φ.val_eq_zero_iff.mpr hd
  · have hmax : max b.len (n + 1 - b.len) = n + 1 - b.len := max_eq_right (by omega)
    refine ⟨by dsimp only; omega, one_pos, hd, h.bmNext_zero _, hmax ▸ h.bmNext_deg _,
      fun i hi hn => h.bmNext_coeff (hmax.trans_le hi) hn, ?_, fun i hi hn => ?_⟩
    · dsimp only
      rw [pow_one]
      exact (natDegree_X_mul_le_succ h.cur_deg).trans (by omega)
    · dsimp only at hi ⊢
      obtain ⟨i, rfl⟩ : ∃ k, i = k + 1 := ⟨i - 1, by omega⟩
      rw [pow_one, coe_mul, coe_X, mul_assoc, PowerSeries.coeff_succ_X_mul]
      rcases Nat.lt_or_eq_of_le (Nat.le_of_succ_le_succ hn) with hn | rfl
      · rw [h.cur_coeff i (by omega) hn, if_neg (by omega)]
      · rw [← val_dot_latest, if_pos rfl]
  · have hmax : max b.len (n + 1 - b.len) = b.len := max_eq_left (by omega)
    exact ⟨by dsimp only; omega, Nat.succ_pos _, h.disc_ne, h.bmNext_zero _, hmax ▸ h.bmNext_deg _,
      fun i hi hn => h.bmNext_coeff (hmax.trans_le hi) hn, hprevDeg, hprevCoeff⟩

end Step

/-! ## Syndromes with few terms -/

section FewTerms

variable {φ s} {J : Finset ℕ} {x y : ℕ → F} (hx : ∀ j ∈ J, x j ≠ 0) (hinj : Set.InjOn x J) (hy : ∀ j ∈ J, y j ≠ 0)
  (hs : syndromeSeries φ s = expSeries J x y)

include hx hinj hy hs

/-- A locator that generates as many syndromes past its length as there are terms is zero at every inverse locator. -/
theorem BmInv.eval_cur_eq_zero {n : ℕ} {b : BmState} (h : BmInv φ s n b) (hn : b.len + J.card ≤ n) :
    ∀ j ∈ J, (φ.poly b.cur).eval (x j)⁻¹ = 0 :=
  eval_inv_eq_zero_of_coeff_eq_zero hx hinj hy h.cur_deg fun i hi => by
    rw [← hs, h.cur_coeff (b.len + i) (Nat.le_add_right _ _) (by omega)]

/-- So its discrepancy is 0. -/
theorem BmInv.dot_eq_zero {n : ℕ} {b : BmState} (h : BmInv φ s n b) (hn : b.len + J.card ≤ n) :
    dot b.cur (latest s (n + 1)) = 0 := by
  have hroots := h.eval_cur_eq_zero hx hinj hy hs hn
  rw [← φ.val_eq_zero_iff, val_dot_latest, hs, coeff_mul_expSeries (h.cur_deg.trans h.len_le) hx]
  exact Finset.sum_eq_zero fun j hj => by rw [hroots j hj, mul_zero, zero_mul]

/-- The length stays within the number of terms. -/
theorem BmInv.bmStep_len_le {n : ℕ} {b : BmState} (h : BmInv φ s n b) (hlen : b.len ≤ J.card) :
    (bmStep n (latest s (n + 1)) b).len ≤ J.card := by
  rcases bmStep_cases n (latest s (n + 1)) b with ⟨_, hstep⟩ | ⟨hd, _, hstep⟩ | ⟨_, _, hstep⟩ <;> rw [hstep]
  · exact hlen
  · have hshort : n < b.len + J.card := Nat.lt_of_not_le fun hn => hd (h.dot_eq_zero hx hinj hy hs hn)
    dsimp only
    omega
  · exact hlen

theorem bmRun_inv (m : ℕ) {n : ℕ} {b : BmState} (h : BmInv φ s n b) (hlen : b.len ≤ J.card) :
    BmInv φ s (n + m) (bmRun n (latest s n) b ((List.range' n m).map s))
      ∧ (bmRun n (latest s n) b ((List.range' n m).map s)).len ≤ J.card := by
  induction m generalizing n b with
  | zero => exact ⟨h, hlen⟩
  | succ m ih =>
    rw [List.range'_succ, List.map_cons, bmRun, show n + (m + 1) = n + 1 + m by omega]
    exact ih h.step (h.bmStep_len_le hx hinj hy hs hlen)

/-- Berlekamp-Massey finds the locator polynomial from twice as many syndromes as there are terms. -/
theorem locator_eq {m : ℕ} (hm : 2 * J.card ≤ m) :
    φ.poly (locator ((List.range m).map s)).1 = locatorPoly J x ∧ (locator ((List.range m).map s)).2 = J.card := by
  obtain ⟨hinv, hlen⟩ := bmRun_inv hx hinj hy hs m (bmInv_bmStart φ s) (Nat.zero_le _)
  rw [Nat.zero_add, ← List.range_eq_range'] at hinv
  rw [← List.range_eq_range'] at hlen
  have hcur := eq_locatorPoly hx hinj (hinv.cur_deg.trans hlen) hinv.cur_zero
    (hinv.eval_cur_eq_zero hx hinj hy hs (by omega))
  exact ⟨hcur, le_antisymm hlen (natDegree_locatorPoly hx ▸ hcur ▸ hinv.cur_deg)⟩

end FewTerms

end BerlekampMassey

end Sys2Proof.Machine
end

section
/-! SUPPORT. One codeword (45_reed_solomon.md R227 to R229): the syndromes of a received word as a sum over its errors, and the
candidate of R229 for a word within the correction capability of a codeword. -/

namespace Sys2Proof.Machine

open Polynomial

/-! ## Errors of a received word against a codeword -/

/-- The value by which symbol `j` of `r` differs from that of `c`. -/
def errorAt (r c : List Byte) (j : ℕ) : Byte := r.getD j 0 ^^^ c.getD j 0

/-- The positions in which `r` and `c` differ. -/
def errorSet (r c : List Byte) : Finset ℕ := (Finset.range 255).filter fun j => errorAt r c j ≠ 0

theorem mem_errorSet {r c : List Byte} {j : ℕ} : j ∈ errorSet r c ↔ j < 255 ∧ errorAt r c j ≠ 0 := by
  simp [errorSet]

/-- The syndromes of `r` and `c` compared (R227). -/
def errorSyndrome (e : ℕ) (r c : List Byte) (i : ℕ) : Byte :=
  wordEval r (betaPow (fcr e + i)) ^^^ wordEval c (betaPow (fcr e + i))

theorem hamming_eq_sum {r c : List Byte} (h : r.length = c.length) :
    hamming r c = ∑ j ∈ Finset.range r.length, if errorAt r c j ≠ 0 then 1 else 0 := by
  induction r generalizing c with
  | nil => simp [hamming]
  | cons a r ih =>
    cases c with
    | nil => simp at h
    | cons b c =>
      have hhead : (a != b).toNat = if errorAt (a :: r) (b :: c) 0 ≠ 0 then 1 else 0 := by
        by_cases hab : a = b <;> simp [errorAt, hab]
      rw [hamming, ih (by simpa using h), List.length_cons, Finset.sum_range_succ', hhead, Nat.add_comm]
      rfl

theorem hamming_eq_card_errorSet {r c : List Byte} (hr : r.length = 255) (hc : c.length = 255) :
    hamming r c = (errorSet r c).card := by
  rw [hamming_eq_sum (hr.trans hc.symm), errorSet, Finset.card_filter, hr]

theorem isCodeword_iff {e : ℕ} {r : List Byte} :
    isCodeword e r = true ↔ ∀ i < 2 * e, wordEval r (betaPow (fcr e + i)) = 0 := by
  simp [isCodeword, syndromes]

/-- A codeword adds nothing to the syndromes. -/
theorem syndromes_eq_errorSyndrome {e : ℕ} (r : List Byte) {c : List Byte} (hc : isCodeword e c = true) :
    syndromes e r = (List.range (2 * e)).map (errorSyndrome e r c) := by
  refine List.map_congr_left fun i hi => ?_
  rw [errorSyndrome, isCodeword_iff.mp hc i (List.mem_range.mp hi)]
  exact BitVec.xor_zero.symm

/-! ## Correcting -/

theorem applyErrors_cons (r : List Byte) (j : ℕ) (positions : List ℕ) (value : ℕ → Byte) :
    applyErrors r (j :: positions) value = applyErrors (r.modify j fun a => a ^^^ value j) positions value := rfl

theorem applyErrors_getElem? (r : List Byte) {positions : List ℕ} (hnodup : positions.Nodup) (value : ℕ → Byte) (i : ℕ) :
    (applyErrors r positions value)[i]? = if i ∈ positions then r[i]?.map fun a => a ^^^ value i else r[i]? := by
  induction positions generalizing r with
  | nil => simp [applyErrors]
  | cons j positions ih =>
    obtain ⟨hj, hnodup⟩ := List.nodup_cons.mp hnodup
    rw [applyErrors_cons, ih _ hnodup]
    rcases eq_or_ne i j with rfl | hij
    · simp [hj]
    · simp [hij, hij.symm]

/-- Correcting every position in which `r` and `c` differ by the difference there gives `c`. -/
theorem applyErrors_eq {r w : List Byte} (hr : r.length = 255) (hc : w.length = 255) {positions : List ℕ}
    (hnodup : positions.Nodup) (hmem : ∀ j, j ∈ positions ↔ j ∈ errorSet r w) {value : ℕ → Byte}
    (hvalue : ∀ j ∈ errorSet r w, value j = errorAt r w j) : applyErrors r positions value = w := by
  refine List.ext_getElem (by rw [applyErrors_length, hr, hc]) fun i hi hi' => ?_
  have hir : i < r.length := by rwa [applyErrors_length] at hi
  have herr : errorAt r w i = r[i] ^^^ w[i] := by simp [errorAt, List.getD_eq_getElem?_getD, hir, hi']
  have hget := applyErrors_getElem? r hnodup value i
  rw [List.getElem?_eq_getElem hi, List.getElem?_eq_getElem hir] at hget
  split at hget
  · next hin =>
    rw [Option.map_some] at hget
    rw [Option.some.inj hget, hvalue i ((hmem i).mp hin), herr, ← BitVec.xor_assoc, BitVec.xor_self, BitVec.zero_xor]
  · next hout =>
    have hzero : errorAt r w i = 0 := by
      by_contra hne
      exact hout ((hmem i).mpr (mem_errorSet.mpr ⟨by omega, hne⟩))
    rw [Option.some.inj hget, BitVec.xor_eq_zero_iff.mp (herr.symm.trans hzero)]

section Reading

variable {F : Type} [Field F] (φ : ByteReading F)

theorem val_foldl_horner (t : Byte) (r : List Byte) (acc : Byte) :
    φ.val (r.foldl (fun acc a => gmul t acc ^^^ a) acc)
      = φ.val acc * φ.val t ^ r.length
        + ∑ j ∈ Finset.range r.length, φ.val (r.getD j 0) * φ.val t ^ (r.length - 1 - j) := by
  induction r generalizing acc with
  | nil => simp
  | cons a r ih =>
    rw [List.foldl_cons, ih, List.length_cons, Finset.sum_range_succ', φ.val_xor, φ.val_gmul]
    simp only [List.getD_cons_succ, List.getD_cons_zero, Nat.add_sub_cancel, Nat.sub_zero, Nat.sub_sub, Nat.add_comm 1]
    ring

/-- A received word's value, its first symbol the coefficient of `x^254` (R227). -/
theorem val_wordEval {r : List Byte} (hr : r.length = 255) (t : Byte) :
    φ.val (wordEval r t) = ∑ j ∈ Finset.range 255, φ.val (r.getD j 0) * φ.val t ^ (254 - j) := by
  have hfold := val_foldl_horner φ t r 0
  rw [hr] at hfold
  rw [wordEval, hfold]
  simp

/-! ## Locators and weights -/

/-- The locator `X_j = β^(254 - j)` of position `j` (R229). -/
def locatorOf (j : ℕ) : F := φ.beta ^ (254 - j)

theorem locatorOf_ne_zero (j : ℕ) : locatorOf φ j ≠ 0 := pow_ne_zero _ φ.beta_ne_zero

theorem locatorOf_injOn (r c : List Byte) : Set.InjOn (locatorOf φ) (errorSet r c) := by
  intro i hi j hj h
  have hi := (mem_errorSet.mp hi).1
  have hj := (mem_errorSet.mp hj).1
  have hexp := φ.beta_pow_injOn (i := 254 - i) (j := 254 - j) (by omega) (by omega) h
  omega

theorem val_invLocator {j : ℕ} (hj : j < 255) : φ.val (invLocator j) = (locatorOf φ j)⁻¹ := by
  refine eq_inv_of_mul_eq_one_left ?_
  rw [invLocator, φ.val_betaPow, locatorOf, ← pow_add, show j + 1 + (254 - j) = 255 by omega, φ.beta_pow_order]

/-- The weight of position `j` in the syndromes: its error value times `X_j^fcr` (R227). -/
def weightOf (e : ℕ) (r c : List Byte) (j : ℕ) : F := φ.val (errorAt r c j) * locatorOf φ j ^ fcr e

theorem weightOf_ne_zero (e : ℕ) {r c : List Byte} {j : ℕ} (hj : j ∈ errorSet r c) : weightOf φ e r c j ≠ 0 :=
  mul_ne_zero (mt φ.val_eq_zero_iff.mp (mem_errorSet.mp hj).2) (pow_ne_zero _ (locatorOf_ne_zero φ j))

/-- The syndromes are a sum over the errors. -/
theorem syndromeSeries_eq_expSeries (e : ℕ) {r c : List Byte} (hr : r.length = 255) (hc : c.length = 255) :
    syndromeSeries φ (errorSyndrome e r c) = expSeries (errorSet r c) (locatorOf φ) (weightOf φ e r c) := by
  ext i
  rw [syndromeSeries, expSeries, PowerSeries.coeff_mk, PowerSeries.coeff_mk, errorSyndrome, φ.val_xor,
    val_wordEval φ hr, val_wordEval φ hc, ← Finset.sum_add_distrib, errorSet, Finset.sum_filter]
  refine Finset.sum_congr rfl fun j _ => ?_
  have hterm : φ.val (r.getD j 0) * φ.val (betaPow (fcr e + i)) ^ (254 - j)
      + φ.val (c.getD j 0) * φ.val (betaPow (fcr e + i)) ^ (254 - j)
        = weightOf φ e r c j * locatorOf φ j ^ i := by
    rw [weightOf, locatorOf, errorAt, φ.val_xor, φ.val_betaPow, ← pow_mul, ← pow_mul, ← pow_mul]
    ring
  rw [hterm]
  split
  · rfl
  · next hzero => rw [weightOf, φ.val_eq_zero_iff.mpr (Classical.not_not.mp hzero), zero_mul, zero_mul]

end Reading

/-! ## The candidate of R229 -/

theorem chien_nodup (lam : List Byte) : (chien lam).Nodup := List.nodup_range.filter _

section Candidate

variable {F : Type} [Field F] (φ : ByteReading F) {e : ℕ} {r c : List Byte} (hr : r.length = 255) (hc : c.length = 255)
  (hcode : isCodeword e c = true) (hdist : (errorSet r c).card ≤ e)

include φ hr hc hcode hdist

theorem locator_syndromes :
    φ.poly (locator (syndromes e r)).1 = locatorPoly (errorSet r c) (locatorOf φ)
      ∧ (locator (syndromes e r)).2 = (errorSet r c).card := by
  rw [syndromes_eq_errorSyndrome r hcode]
  exact locator_eq (fun j _ => locatorOf_ne_zero φ j) (locatorOf_injOn φ r c) (fun _ => weightOf_ne_zero φ e)
    (syndromeSeries_eq_expSeries φ e hr hc) (Nat.mul_le_mul_left 2 hdist)

/-- A Chien search finds the positions in error. -/
theorem mem_chien_locator (j : ℕ) : j ∈ chien (locator (syndromes e r)).1 ↔ j ∈ errorSet r c := by
  have hroot : j < 255 → (polyEval (locator (syndromes e r)).1 (invLocator j) = 0 ↔ j ∈ errorSet r c) := by
    intro hj
    rw [← φ.val_eq_zero_iff, φ.val_polyEval, (locator_syndromes φ hr hc hcode hdist).1, val_invLocator φ hj,
      eval_locatorPoly_eq_zero_iff]
    refine ⟨fun ⟨k, hk, hone⟩ => ?_, fun hin => ⟨j, hin, mul_inv_cancel₀ (locatorOf_ne_zero φ j)⟩⟩
    have hexp := φ.beta_pow_injOn (i := 254 - k) (j := 254 - j) (by omega) (by omega) (eq_of_mul_inv_eq_one hone)
    have hk255 := (mem_errorSet.mp hk).1
    rwa [show j = k by omega]
  rw [chien, List.mem_filter, List.mem_range, beq_iff_eq]
  refine ⟨fun ⟨hj, hzero⟩ => (hroot hj).mp hzero, fun hin => ?_⟩
  have hj := (mem_errorSet.mp hin).1
  exact ⟨hj, (hroot hj).mpr hin⟩

theorem chien_locator_length : (chien (locator (syndromes e r)).1).length = (errorSet r c).card := by
  rw [← List.toFinset_card_of_nodup (chien_nodup _)]
  congr 1
  ext j
  rw [List.mem_toFinset, mem_chien_locator φ hr hc hcode hdist]

/-- `Ω` is the evaluator of the errors. -/
theorem poly_evaluator :
    φ.poly (evaluator e (syndromes e r) (locator (syndromes e r)).1)
      = evaluatorPoly (errorSet r c) (locatorOf φ) (weightOf φ e r c) := by
  have hlam := (locator_syndromes φ hr hc hcode hdist).1
  have hseries := locatorPoly_mul_expSeries (errorSet r c) (locatorOf φ) (weightOf φ e r c)
  rw [← syndromeSeries_eq_expSeries φ e hr hc] at hseries
  ext i
  rw [φ.coeff_poly, evaluator]
  rcases Nat.lt_or_ge i (2 * e) with hi | hi
  · rw [List.getD_eq_getElem?_getD, List.getElem?_take_of_lt hi, ← List.getD_eq_getElem?_getD, ← φ.coeff_poly,
      φ.poly_polyMul, hlam, mul_comm, coeff_mul, ← coeff_coe, ← hseries, PowerSeries.coeff_mul]
    refine Finset.sum_congr rfl fun k hk => ?_
    have hk := Finset.HasAntidiagonal.mem_antidiagonal.mp hk
    rw [φ.coeff_poly, coeff_coe, syndromes_eq_errorSyndrome r hcode, syndromeSeries, PowerSeries.coeff_mk]
    simp [List.getD_eq_getElem?_getD, show k.2 < 2 * e by omega]
  · rw [coeff_evaluatorPoly_of_card_le (by omega), List.getD_eq_getElem?_getD, List.getElem?_take_eq_none hi]
    simp

/-- Forney's formula gives the error at every position in error. -/
theorem forney_eq_errorAt (hfcr : 0 < fcr e) {j : ℕ} (hj : j ∈ errorSet r c) :
    forney e (evaluator e (syndromes e r) (locator (syndromes e r)).1) (polyDeriv (locator (syndromes e r)).1) j
      = errorAt r c j := by
  have hx : ∀ j ∈ errorSet r c, locatorOf φ j ≠ 0 := fun j _ => locatorOf_ne_zero φ j
  have hinj := locatorOf_injOn φ r c
  have hlam := (locator_syndromes φ hr hc hcode hdist).1
  have hinv := val_invLocator φ (mem_errorSet.mp hj).1
  have hderiv : φ.val (polyEval (polyDeriv (locator (syndromes e r)).1) (invLocator j))
      = (derivative (locatorPoly (errorSet r c) (locatorOf φ))).eval (locatorOf φ j)⁻¹ := by
    rw [φ.val_polyEval, φ.poly_polyDeriv, hlam, hinv]
  have hne : polyEval (polyDeriv (locator (syndromes e r)).1) (invLocator j) ≠ 0 := by
    rw [Ne, ← φ.val_eq_zero_iff, hderiv]
    exact eval_derivative_locatorPoly_ne_zero hx hinj hj
  have hscale : φ.val (betaPow ((j + 1) * (fcr e - 1))) = (locatorOf φ j)⁻¹ ^ (fcr e - 1) := by
    rw [← hinv, invLocator, φ.val_betaPow, φ.val_betaPow, pow_mul]
  apply φ.val_injective
  rw [forney, φ.val_gmul, φ.val_gmul, φ.val_ginv hne, hderiv, hscale, φ.val_polyEval,
    poly_evaluator φ hr hc hcode hdist, hinv, eval_evaluatorPoly_div_derivative hx hinj hj, weightOf]
  have hpow : (locatorOf φ j)⁻¹ ^ (fcr e - 1) * (locatorOf φ j)⁻¹ * locatorOf φ j ^ fcr e = 1 := by
    rw [← pow_succ, Nat.sub_add_cancel hfcr, ← mul_pow, inv_mul_cancel₀ (locatorOf_ne_zero φ j), one_pow]
  linear_combination (-φ.val (errorAt r c j)) * hpow - φ.add_self (errorAt r c j)

/-- Within the correction capability of a codeword the candidate is that codeword. -/
theorem candidate_eq_some (hfcr : 0 < fcr e) : candidate e r = some c := by
  have hlen := (locator_syndromes φ hr hc hcode hdist).2
  have hcount := chien_locator_length φ hr hc hcode hdist
  have hword := applyErrors_eq hr hc (chien_nodup _) (mem_chien_locator φ hr hc hcode hdist)
    fun j => forney_eq_errorAt φ hr hc hcode hdist hfcr
  simp only [candidate, hlen, hcount, hword]
  simp [hdist]

/-- A codeword within the correction capability of a codeword is that codeword. -/
theorem eq_of_isCodeword (hcodeR : isCodeword e r = true) : r = c := by
  have hzero : ∀ i < (errorSet r c).card, ∑ j ∈ errorSet r c, weightOf φ e r c j * locatorOf φ j ^ (0 + i) = 0 := by
    intro i hi
    have hcoeff := congrArg (PowerSeries.coeff i) (syndromeSeries_eq_expSeries φ e hr hc)
    rw [syndromeSeries, expSeries, PowerSeries.coeff_mk, PowerSeries.coeff_mk, errorSyndrome,
      isCodeword_iff.mp hcodeR i (by omega), isCodeword_iff.mp hcode i (by omega), BitVec.xor_self, φ.val_zero] at hcoeff
    rw [Nat.zero_add, ← hcoeff]
  have hweights := weights_eq_zero_of_expSum_eq_zero (fun j _ => locatorOf_ne_zero φ j) (locatorOf_injOn φ r c) hzero
  have hnone : ∀ j, j ∉ errorSet r c := fun j hj => weightOf_ne_zero φ e hj (hweights j hj)
  exact applyErrors_eq hr hc List.nodup_nil (value := errorAt r c) (fun j => by simp [hnone j]) fun j hj => rfl

end Candidate

end Sys2Proof.Machine
end

section
/-! The statements about the Reed-Solomon decoder: one codeword (45_reed_solomon.md R228, R233), then one frame (R230 to R232). -/

namespace Sys2Proof.Machine

/-! ## One codeword -/

theorem hamming_self (r : List Byte) : hamming r r = 0 := by
  induction r with
  | nil => rfl
  | cons a r ih => simp [hamming, ih]

theorem rsCwDecode_of_isCodeword {e : ℕ} {r : List Byte} (h : isCodeword e r = true) : rsCwDecode e r = some (r, 0) :=
  if_pos h

theorem rsCwDecode_of_candidate {e : ℕ} {r w : List Byte} (hr : isCodeword e r = false) (hcand : candidate e r = some w)
    (hw : isCodeword e w = true) (hdist : hamming r w ≤ e) : rsCwDecode e r = some (w, hamming r w) := by
  simp [rsCwDecode, hr, hcand, hw, hdist]

/-- What decoding answers is a codeword at the distance reported, within the capability. -/
theorem rsCwDecode_sound {e : ℕ} {r c : List Byte} {k : ℕ} (hr : r.length = 255) (h : rsCwDecode e r = some (c, k)) :
    c.length = 255 ∧ isCodeword e c = true ∧ hamming r c = k ∧ k ≤ e := by
  refine ⟨(rsCwDecode_length h).trans hr, ?_⟩
  rcases rsCwDecode_cases e r with ⟨hcode, hanswer⟩ | ⟨_, ⟨w, _, hcode, hdist, hanswer⟩ | hanswer⟩ <;> rw [h] at hanswer
  · obtain ⟨rfl, rfl⟩ := Prod.mk.inj (Option.some.inj hanswer)
    exact ⟨hcode, hamming_self c, Nat.zero_le e⟩
  · obtain ⟨rfl, rfl⟩ := Prod.mk.inj (Option.some.inj hanswer)
    exact ⟨hcode, rfl, hdist⟩
  · cases hanswer

/-- A codeword within the capability is what decoding answers. -/
theorem rsCwDecode_complete {e : ℕ} (hfcr : 0 < fcr e) {r c : List Byte} (hr : r.length = 255) (hc : c.length = 255)
    (hcode : isCodeword e c = true) (hdist : hamming r c ≤ e) : rsCwDecode e r = some (c, hamming r c) := by
  obtain ⟨F, _, ⟨φ⟩⟩ := exists_byteReading
  have hcard : (errorSet r c).card ≤ e := hamming_eq_card_errorSet hr hc ▸ hdist
  cases hcodeR : isCodeword e r with
  | true =>
    obtain rfl := eq_of_isCodeword φ hr hc hcode hcard hcodeR
    rw [rsCwDecode_of_isCodeword hcodeR, hamming_self]
  | false => exact rsCwDecode_of_candidate hcodeR (candidate_eq_some φ hr hc hcode hcard hfcr) hcode hdist

theorem rsCwDecode_eq_some_iff {e : ℕ} (hfcr : 0 < fcr e) {r c : List Byte} {k : ℕ} (hr : r.length = 255) :
    rsCwDecode e r = some (c, k) ↔ c.length = 255 ∧ isCodeword e c = true ∧ hamming r c = k ∧ k ≤ e := by
  refine ⟨rsCwDecode_sound hr, ?_⟩
  rintro ⟨hc, hcode, rfl, hdist⟩
  exact rsCwDecode_complete hfcr hr hc hcode hdist

theorem rsCwDecode_eq_none_iff {e : ℕ} (hfcr : 0 < fcr e) {r : List Byte} (hr : r.length = 255) :
    rsCwDecode e r = none ↔ ∀ c : List Byte, c.length = 255 → isCodeword e c = true → e < hamming r c := by
  refine ⟨fun hnone c hc hcode => Nat.lt_of_not_le fun hdist => ?_, fun hfar => ?_⟩
  · rw [rsCwDecode_complete hfcr hr hc hcode hdist] at hnone
    cases hnone
  · refine Option.eq_none_iff_forall_ne_some.mpr fun ⟨c, k⟩ hsome => ?_
    obtain ⟨hc, hcode, rfl, hdist⟩ := rsCwDecode_sound hr hsome
    exact absurd (hfar c hc hcode) (Nat.not_lt.mpr hdist)

theorem fcr_rsCapability_pos (profile : Bool) : 0 < fcr (rsCapability profile) := by cases profile <;> decide

/-- Settles O49: by the cases of the recheck after correction (R229). -/
theorem rsAcceptedWordIsCodeword : Obligations.RsAcceptedWordIsCodeword :=
  fun _ _ _ _ hr h => rsCwDecode_sound hr h

/-- Settles O50: Berlekamp-Massey, the Chien search and Forney's formula find the errors of a word within the capability, and a
word that is a codeword already is the only codeword within it. -/
theorem rsDecodesWithinCapability : Obligations.RsDecodesWithinCapability :=
  fun profile _ _ _ hr => rsCwDecode_eq_some_iff (fcr_rsCapability_pos profile) hr

/-! ## One frame -/

section Frame

variable {c : CfgRegs} {frame : List Byte} {b : ℕ}

theorem branchOf_length (c : CfgRegs) (b : ℕ) (w : List Byte) : (branchOf c b w).length = 255 := by simp [branchOf]

/-- Byte `j · I + b` of a frame of `255 · I` bytes is there. -/
theorem branchIndex_lt {depth j : ℕ} (hb : b < depth) (hj : j < 255) : j * depth + b < 255 * depth := by
  have hle : (j + 1) * depth ≤ 255 * depth := Nat.mul_le_mul_right depth hj
  rw [Nat.succ_mul] at hle
  omega

/-- The word that decoding a branch of a whole frame works on (R230, R231). -/
theorem branchWord_map_fromWire (hlen : frame.length = 255 * rsDepth c) (hb : b < rsDepth c) :
    (branchWord (rsDepth c) b frame).map (fromWire (rsDual c)) = branchOf c b frame := by
  refine List.ext_getElem (by simp [branchOf]) fun j hj _ => ?_
  have hj : j < 255 := by simpa using hj
  have hin : j * rsDepth c + b < frame.length := hlen ▸ branchIndex_lt hb hj
  rw [List.getElem_map, branchWord_getElem _ _ _ _ hj]
  simp [branchOf, List.getD_eq_getElem?_getD, hin]

/-- A frame's branch, read off the interleaved answer with parity kept (R230 to R232). -/
theorem branchOf_rsDecodeFrame (profile : Bool) (hkeep : rsKeepParity c = true) (hb : b < rsDepth c) {w : List Byte}
    (hw : w.length = 255)
    (hword : (decodeBranch (rsCapability profile) (rsDual c) (branchWord (rsDepth c) b frame)).word
      = w.map (toWire (rsDual c))) : branchOf c b (rsDecodeFrame c profile frame).bytes = w := by
  refine List.ext_getElem (by rw [branchOf_length, hw]) fun j hj hj' => ?_
  have hj : j < 255 := hw ▸ hj'
  simp only [branchOf, List.getElem_map, List.getElem_range]
  rw [rsDecodeFrame_bytes_getD c profile frame b j hb hkeep hj, hword]
  simp [List.getD_eq_getElem?_getD, hj']

/-- The row of a profile with a legal depth and a frame of `255 · I` bytes (R232). -/
theorem exec_rsDecode (s : State) (profile : Bool) (h1 : 1 ≤ rsDepth s.cfg) (h8 : rsDepth s.cfg ≤ 8)
    (hlen : frame.length = 255 * rsDepth s.cfg) :
    exec (if profile then .rsDecode239 frame else .rsDecode223 frame) s
      = .next { s with
          answer := .corrected (rsDecodeFrame s.cfg profile frame).bytes (rsDecodeFrame s.cfg profile frame).count
            (rsDecodeFrame s.cfg profile frame).uncorr } := by
  have hgeometry : rsGeometryLegal s.cfg frame.length = true := (rsGeometryLegal_iff _ _).mpr ⟨h1, h8, hlen⟩
  have hop : rsDecodeOp profile frame s = withAnswer (.corrected (rsDecodeFrame s.cfg profile frame).bytes
      (rsDecodeFrame s.cfg profile frame).count (rsDecodeFrame s.cfg profile frame).uncorr) s := if_pos hgeometry
  cases profile <;> exact congrArg Host.Outcome.next hop

/-- What a frame's answer holds for one branch: the branch decoded alone, in the two cases of R228. -/
theorem rsDecodeFrame_branch_cases (profile : Bool) (hlen : frame.length = 255 * rsDepth c) (hb : b < rsDepth c) :
    (∃ w k, rsCwDecode (rsCapability profile) (branchOf c b frame) = some (w, k)
        ∧ (∀ dflt, (rsDecodeFrame c profile frame).uncorr.getD b dflt = false)
        ∧ (rsDecodeFrame c profile frame).count.getD b 0 = k
        ∧ (rsKeepParity c = true → branchOf c b (rsDecodeFrame c profile frame).bytes = w))
      ∨ (rsCwDecode (rsCapability profile) (branchOf c b frame) = none
        ∧ (∀ dflt, (rsDecodeFrame c profile frame).uncorr.getD b dflt = true)
        ∧ (rsDecodeFrame c profile frame).count.getD b 0 = 0
        ∧ (rsKeepParity c = true → ∀ j < 255,
            (rsDecodeFrame c profile frame).bytes.getD (j * rsDepth c + b) 0 = frame.getD (j * rsDepth c + b) 0)) := by
  have hcases := decodeBranch_cases (rsCapability profile) (rsDual c) (branchWord (rsDepth c) b frame)
  rw [branchWord_map_fromWire hlen hb] at hcases
  have huncorr := fun dflt => rsDecodeFrame_uncorr_getD c profile frame b dflt hb
  have hcount := rsDecodeFrame_count_getD c profile frame b 0 hb
  rcases hcases with ⟨w, k, hsome, hbranch⟩ | ⟨hnone, hbranch⟩
  · refine .inl ⟨w, k, hsome, fun dflt => ?_, ?_, fun hkeep => ?_⟩
    · rw [huncorr, hbranch]
    · rw [hcount, hbranch]
    · exact branchOf_rsDecodeFrame profile hkeep hb ((rsCwDecode_length hsome).trans (branchOf_length c b frame))
        (by rw [hbranch])
  · refine .inr ⟨hnone, fun dflt => ?_, ?_, fun hkeep j hj => ?_⟩
    · rw [huncorr, hbranch]
    · rw [hcount, hbranch]
    · have hin : j * rsDepth c + b < frame.length := hlen ▸ branchIndex_lt hb hj
      rw [rsDecodeFrame_bytes_getD c profile frame b j hb hkeep hj, hbranch]
      dsimp only
      rw [List.getD_eq_getElem _ _ (by simpa using hj), branchWord_getElem _ _ _ _ hj]
      simp [List.getD_eq_getElem?_getD, hin]

end Frame

/-- Settles O51: each branch by the two cases of R228. -/
theorem rsFrameBranches : Obligations.RsFrameBranches := by
  intro s profile frame h1 h8 hlen hkeep
  obtain ⟨hbytes, hcount, huncorr⟩ := rsDecodeFrame_lengths s.cfg profile frame
  refine ⟨_, _, _, exec_rsDecode s profile h1 h8 hlen, by rw [hbytes, if_pos hkeep, hlen], hcount, huncorr, fun b hb => ?_⟩
  have hlength := branchOf_length s.cfg b frame
  rw [← rsCwDecode_eq_none_iff (fcr_rsCapability_pos profile) hlength]
  rcases rsDecodeFrame_branch_cases profile hlen hb with ⟨w, k, hsome, hmark, hk, hword⟩ | ⟨hnone, hmark, hzero, hsame⟩
  · obtain ⟨-, hcode, hdist, hle⟩ := rsCwDecode_sound hlength hsome
    rw [hmark, hk, hword hkeep, hsome]
    exact ⟨by simp, nofun, fun _ => ⟨hcode, hdist, hle⟩⟩
  · rw [hmark, hzero, hnone]
    exact ⟨by simp, fun _ => ⟨rfl, hsame hkeep⟩, nofun⟩

/-! ## Parity dropped -/

/-- The configuration with `RS_KEEP_PARITY` (bit 9 of `MODE`) set. -/
def keepParity (c : CfgRegs) : CfgRegs := { c with mode := c.mode ||| 0x200 }

@[simp] theorem rsKeepParity_keepParity (c : CfgRegs) : rsKeepParity (keepParity c) = true := by
  simp [rsKeepParity, keepParity, bitOf]

@[simp] theorem rsDepth_keepParity (c : CfgRegs) : rsDepth (keepParity c) = rsDepth c := by
  simp [rsDepth, keepParity, field, ← Nat.shiftRight_eq_div_pow _ 10, Nat.shiftRight_or_distrib]

@[simp] theorem rsDual_keepParity (c : CfgRegs) : rsDual (keepParity c) = rsDual c := by
  simp [rsDual, keepParity, bitOf]

@[simp] theorem branchOf_keepParity (c : CfgRegs) : branchOf (keepParity c) = branchOf c := by
  funext b w
  simp [branchOf]

/-- Without parity the answer is the start of the answer with parity (R232). -/
theorem rsDecodeFrame_of_not_keepParity {c : CfgRegs} (hdrop : rsKeepParity c = false) (profile : Bool) (frame : List Byte) :
    rsDecodeFrame c profile frame
      = { bytes := (rsDecodeFrame (keepParity c) profile frame).bytes.take (rsDataLen profile * rsDepth c)
          count := (rsDecodeFrame (keepParity c) profile frame).count
          uncorr := (rsDecodeFrame (keepParity c) profile frame).uncorr } := by
  simp [rsDecodeFrame, hdrop]

theorem rsDataLen_eq (profile : Bool) : rsDataLen profile = if profile then 239 else 223 := by cases profile <;> rfl

/-- Settles O52: the same branches are decoded with parity kept, and each by the two cases of R228. -/
theorem rsParityDropTruncates : Obligations.RsParityDropTruncates := by
  intro s profile frame h1 h8 hlen hdrop
  have hrow := exec_rsDecode s profile h1 h8 hlen
  rw [rsDecodeFrame_of_not_keepParity hdrop, rsDataLen_eq] at hrow
  have hrowKeep := exec_rsDecode { s with cfg := keepParity s.cfg } profile (frame := frame) (by simpa) (by simpa) (by simpa)
  refine ⟨_, _, _, rfl, hrowKeep, hrow, fun b hb => ?_⟩
  have hbranch := rsDecodeFrame_branch_cases (c := keepParity s.cfg) (b := b) profile (by simpa using hlen) (by simpa using hb)
  rw [branchOf_keepParity] at hbranch
  rcases hbranch with ⟨w, k, hsome, hmark, hk, hword⟩ | ⟨hnone, hmark, -, -⟩
  · refine ⟨iff_of_false (ne_true_of_eq_false (hmark true)) (hsome ▸ nofun), fun c k' h => ?_⟩
    obtain ⟨rfl, rfl⟩ := Prod.mk.inj (Option.some.inj (hsome.symm.trans h))
    exact ⟨hk, hmark true, hword (rsKeepParity_keepParity _)⟩
  · exact ⟨iff_of_true (hmark true) hnone, fun c k h => absurd (hnone.symm.trans h) nofun⟩

end Sys2Proof.Machine
end

section
/-! SUPPORT. The frame chain (46_frame_chain.md): packed bits, the fields of a tag, and `FRAME_EMIT` stage by stage. -/

namespace Sys2Proof.Machine

/-! ## Packing (R252) -/

theorem exec_hardPack (s : State) (z : List Soft) :
    exec (.hardPack z) s = .next { s with answer := .bytes (hardPack z) } := rfl

/-- Bit `7 - i` of packed byte `k` is the hard decision of value `8k + i`. -/
theorem hardPack_getLsbD (z : List Soft) {k i : Nat} (hk : k < z.length / 8) (hi : i < 8) :
    ((hardPack z).getD k 0).getLsbD (7 - i) = hard (z.getD (8 * k + i) 0) := by
  rw [← hardPack_getMsbD z hk hi, BitVec.getMsbD, decide_eq_true hi, Bool.true_and]

/-- Settles O40: the row answers the packed bytes, whose bits are known one by one. -/
theorem hardPackBits : Obligations.HardPackBits := by
  intro s z _
  refine ⟨hardPack z, exec_hardPack s z, hardPack_length z, fun k i hk hi => ?_⟩
  exact hardPack_getLsbD z (hardPack_length z ▸ hk) hi

/-! ## The fields of a tag (R254; 30_encoding.md R89) -/

theorem testBit_uncorrMask (uncorr : List Bool) (b : Nat) : (uncorrMask uncorr).testBit b = uncorr.getD b false := by
  induction uncorr generalizing b with
  | nil => simp [uncorrMask]
  | cons u rest ih =>
    rw [uncorrMask, Nat.add_comm, ← Nat.bit_val]
    cases b with
    | zero => simp
    | succ b => rw [Nat.testBit_bit_succ, ih, List.getD_cons_succ]

/-- The branch marks of a tag as a number, 0 without Reed-Solomon. -/
def tagMarks (c : CfgRegs) (uncorr : List Bool) : Nat := if rsEn c then uncorrMask uncorr % 2 ^ 8 else 0

/-- The bit-error count of a tag, 0 without Viterbi. -/
def tagBer (c : CfgRegs) (ber : Nat) : Nat := if vitEn c then min ber 0xFFFF else 0

theorem testBit_tagMarks (c : CfgRegs) (uncorr : List Bool) {b : Nat} (hb : b < 8) :
    (tagMarks c uncorr).testBit b = (rsEn c && uncorr.getD b false) := by
  unfold tagMarks
  cases rsEn c
  · simp
  · rw [if_pos rfl, Nat.testBit_mod_two_pow, decide_eq_true hb, testBit_uncorrMask, Bool.true_and]

section Tag

variable (c : CfgRegs) (flag : Bool) (lock : Lock) (uncorr : List Bool) (ber : Nat)

/-- Each field of a tag fits its place. -/
theorem tagField_bounds :
    flag.toNat ≤ 1 ∧ (rsEn c && uncorr.any id).toNat ≤ 1 ∧ (rsEn c).toNat ≤ 1 ∧ (vitEn c).toNat ≤ 1 ∧ lockCode lock ≤ 2
      ∧ tagMarks c uncorr < 2 ^ 8 ∧ tagBer c ber < 2 ^ 16 := by
  refine ⟨flag.toNat_le, Bool.toNat_le _, Bool.toNat_le _, Bool.toNat_le _, lockCode_le lock, ?_, ?_⟩
  · unfold tagMarks
    split <;> omega
  · unfold tagBer
    split <;> omega

/-- The number a tag holds: the fields fit their places, so nothing is lost in the sum. -/
theorem makeTag_toNat :
    (makeTag c flag lock uncorr ber).toNat
      = flag.toNat + (rsEn c && uncorr.any id).toNat * 2 ^ 1 + (rsEn c).toNat * 2 ^ 2 + (vitEn c).toNat * 2 ^ 3
        + lockCode lock * 2 ^ 4 + tagMarks c uncorr * 2 ^ 8 + tagBer c ber * 2 ^ 16 := by
  have hbounds := tagField_bounds c flag lock uncorr ber
  have hmarks : (if rsEn c then uncorrMask uncorr % 2 ^ 8 * 2 ^ 8 else 0) = tagMarks c uncorr * 2 ^ 8 := by
    rw [tagMarks, ite_mul, Nat.zero_mul]
  have hber : (if vitEn c then min ber 0xFFFF * 2 ^ 16 else 0) = tagBer c ber * 2 ^ 16 := by
    rw [tagBer, ite_mul, Nat.zero_mul]
  rw [makeTag, hmarks, hber, BitVec.toNat_ofNat]
  omega

theorem makeTag_mismatch : (makeTag c flag lock uncorr ber).getLsbD 0 = flag := by
  have hbounds := tagField_bounds c flag lock uncorr ber
  exact getLsbD_of_div_mod (by rw [makeTag_toNat]; omega)

theorem makeTag_rsFail : (makeTag c flag lock uncorr ber).getLsbD 1 = (rsEn c && uncorr.any id) := by
  have hbounds := tagField_bounds c flag lock uncorr ber
  exact getLsbD_of_div_mod (by rw [makeTag_toNat]; omega)

theorem makeTag_lock : ((makeTag c flag lock uncorr ber).extractLsb' 4 2).toNat = lockCode lock := by
  have hbounds := tagField_bounds c flag lock uncorr ber
  rw [extractLsb'_toNat, makeTag_toNat]
  omega

theorem makeTag_marks : (makeTag c flag lock uncorr ber).toNat / 2 ^ 8 % 2 ^ 8 = tagMarks c uncorr := by
  have hbounds := tagField_bounds c flag lock uncorr ber
  rw [makeTag_toNat]
  omega

theorem makeTag_mark {b : Nat} (hb : b < 8) :
    (makeTag c flag lock uncorr ber).getLsbD (8 + b) = (rsEn c && uncorr.getD b false) := by
  rw [← testBit_tagMarks c uncorr hb, ← makeTag_marks c flag lock uncorr ber, Nat.testBit_mod_two_pow, decide_eq_true hb,
    Bool.true_and, Nat.testBit_div_two_pow, Nat.add_comm]
  rfl

end Tag

theorem and_any_id_iff (a : Bool) (l : List Bool) : (a && l.any id) = true ↔ a = true ∧ true ∈ l := by simp

/-- Settles O38: each field is cut out of the sum of all fields. -/
theorem tagFields : Obligations.TagFields := by
  intro c flag lock uncorr ber _
  have hword := makeTag_toNat c flag lock uncorr ber
  have hbounds := tagField_bounds c flag lock uncorr ber
  refine ⟨makeTag_mismatch c flag lock uncorr ber, ?_, getLsbD_of_div_mod (by omega), getLsbD_of_div_mod (by omega),
    (makeTag_lock c flag lock uncorr ber).trans (by cases lock <;> rfl), BitVec.eq_of_toNat_eq ?_,
    fun b hb => makeTag_mark c flag lock uncorr ber hb, ?_⟩
  · rw [makeTag_rsFail, and_any_id_iff]
  · rw [extractLsb'_toNat]
    change _ = 0
    omega
  · rw [extractLsb'_toNat, ← tagBer]
    omega

/-! ## `FRAME_EMIT` with every stage off (R250) -/

/-- The first soft stage of `FRAME_EMIT`: `DERAND` if enabled. -/
def derandStage (c : CfgRegs) (x : List Soft) : List Soft := if derandEn c then derandomize x else x

theorem softStages_eq (c : CfgRegs) (last : Bool) (m x : List Soft) :
    softStages c last m x = diffFrame (diffMode c) last m (derandStage c x) := rfl

theorem framePayload_getD (c : CfgRegs) (v : List Soft) (h : BitVec 3) (p : Nat) {j : Nat} (hj : j < payloadLen c) :
    (framePayload c v h p).getD j 0 = corrected c v h (p + markerLen c + j) := by
  simp [framePayload, List.getD_eq_getElem?_getD, hj]

/-- The bytes of the frame that `FRAME_EMIT` queues (R250). -/
def frameBytes (p : Nat) (h : BitVec 3) (s : State) : List Byte :=
  (rsStage s.cfg
    (byteStage s.cfg s.pm
      (softStages s.cfg s.lastBit (frameMarker s.cfg s.soft h p) (framePayload s.cfg s.soft h p)).1).bytes).bytes

theorem emitFrame_queue_frameBytes (p : Nat) (h : BitVec 3) (flag : Bool) (lock : Lock) (s : State) :
    ∃ tag, (emitFrame p h flag lock s).queue = s.queue ++ [{ bytes := frameBytes p h s, tag := tag }] := ⟨_, rfl⟩

theorem frameBytes_of_stages_off {s : State} (hderand : derandEn s.cfg = false) (hdiff : diffMode s.cfg = 0)
    (hvit : vitEn s.cfg = false) (hrs : rsEn s.cfg = false) (p : Nat) (h : BitVec 3) :
    frameBytes p h s = hardPack (framePayload s.cfg s.soft h p) := by
  simp [frameBytes, softStages_eq, derandStage, diffFrame, byteStage, rsStage, hderand, hdiff, hvit, hrs]

/-- Settles O39: with no stage on, the queued bytes are the packed payload. -/
theorem uncodedFrameIsHardPayload : Obligations.UncodedFrameIsHardPayload := by
  intro s hrun hphase hend _ hderand hdiff hvit hrs
  have hframe := exec_frameEmit_selected ((frameComplete_iff s).mpr ⟨hrun, hphase, hend⟩)
  obtain ⟨tag, hqueue⟩ := emitFrame_queue_frameBytes s.deframer.pos s.deframer.hyp s.deframer.flag s.deframer.lock s
  rw [frameBytes_of_stages_off hderand hdiff hvit hrs] at hqueue
  have hlen : (hardPack (framePayload s.cfg s.soft s.deframer.hyp s.deframer.pos)).length = payloadLen s.cfg / 8 := by simp
  refine ⟨_, _, hframe, hqueue, hlen, fun k i hk hi => ?_⟩
  have hk : k < payloadLen s.cfg / 8 := hlen ▸ hk
  rw [hardPack_getLsbD _ (by simpa using hk) hi, framePayload_getD _ _ _ _ (by omega)]

/-! ## `FRAME_EMIT` stage by stage (R250) -/

@[simp] theorem derandStage_length (c : CfgRegs) (x : List Soft) : (derandStage c x).length = x.length := by
  unfold derandStage
  split <;> simp

theorem derandStage_as_row (s : State) (x : List Soft) :
    if derandEn s.cfg then exec (.derand x) s = .next { s with answer := .softs (derandStage s.cfg x) }
    else derandStage s.cfg x = x := by
  split
  · next h => rw [derandStage, if_pos h, exec_derand]
  · next h => rw [derandStage, if_neg h]

/-- One step of the decoder on a value, by the soft value before it on the channel (43_descrambler.md R185, R186). -/
theorem diffOut_hard (mode : Nat) (before y : Soft) :
    diffOut mode (hard before) y = if (0 ≤ before.toInt ↔ mode = 1) then ~~~y else y := by
  rw [hard_eq_decide, diffOut]
  by_cases hmode : mode = 1
  · simp [hmode, nrzmOut, invIf, inv8]
  · simp [hmode, nrzsOut, invIf, inv8]

/-- `DIFF` over a marker and a payload that are not empty, value by value (43_descrambler.md R187). -/
theorem diffOf_diffFrame (mode : Nat) (last : Bool) {m y : List Soft} (hm : m ≠ []) (hy : y ≠ []) :
    DiffOf mode last m y (diffFrame mode last m y).1 (diffFrame mode last m y).2 := by
  refine ⟨fun hmode => ?_, fun hmode => ?_⟩
  · rw [diffFrame, if_pos hmode]
    exact ⟨rfl, rfl⟩
  · rw [diffFrame, if_neg hmode]
    refine ⟨diffRun_length _ _ _, ?_, fun j hj => ?_⟩
    · rw [diffRun_last _ _ _ hy, hard_eq_decide]
    · rw [diffRun_getD _ _ _ _ hj, diffRun_last _ _ _ hm, ← apply_ite hard]
      exact diffOut_hard _ _ _

/-- A marker that check 1 of `START` lets pass is not empty (47_host_commands.md R272). -/
theorem markerLen_pos_of_check_passes {c : CfgRegs} (h : ¬ StartCheckFails c 1) : 0 < markerLen c := by
  simp only [StartCheckFails] at h
  omega

/-- A code that check 5 of `START` lets pass is one the decoder may run (47_host_commands.md R272). -/
theorem codeLegal_of_check_passes {c : CfgRegs} (h : ¬ StartCheckFails c 5) (hvit : vitEn c = true) :
    codeLegal (vitCode c) = true := by
  simp only [StartCheckFails, hvit, true_and] at h
  rw [codeLegal_iff]
  omega

theorem byteStage_as_row {s : State} (h : ¬ StartCheckFails s.cfg 5) (z : List Soft) :
    if vitEn s.cfg then
      exec (.vitDecode z) s
        = .next
            { s with
              pm := (byteStage s.cfg s.pm z).pm
              answer := .decoded (byteStage s.cfg s.pm z).bytes (byteStage s.cfg s.pm z).ber }
    else
      exec (.hardPack z) s = .next { s with answer := .bytes (byteStage s.cfg s.pm z).bytes }
        ∧ (byteStage s.cfg s.pm z).ber = 0 ∧ (byteStage s.cfg s.pm z).pm = s.pm := by
  split
  · next hvit =>
    rw [exec_vitDecode_legalCode (codeLegal_of_check_passes h hvit), byteStage, if_pos hvit]
    rfl
  · next hvit =>
    rw [byteStage, if_neg hvit]
    exact ⟨exec_hardPack s z, rfl, rfl⟩

theorem rsStage_as_row {s : State} (h : ¬ StartCheckFails s.cfg 6) {raw : List Byte} (hraw : raw.length = bytesIn s.cfg) :
    if rsEn s.cfg then
      exec (if rsProfile s.cfg then .rsDecode239 raw else .rsDecode223 raw) s
        = .next
            { s with
              answer := .corrected (rsStage s.cfg raw).bytes (rsStage s.cfg raw).count (rsStage s.cfg raw).uncorr }
    else (rsStage s.cfg raw).bytes = raw ∧ (rsStage s.cfg raw).count = [] ∧ (rsStage s.cfg raw).uncorr = [] := by
  split
  · next hrs =>
    simp only [StartCheckFails, hrs, true_and] at h
    rw [exec_rsDecode s (rsProfile s.cfg) (by omega) (by omega) (by omega), rsStage, if_pos hrs]
  · next hrs =>
    rw [rsStage, if_neg hrs]
    exact ⟨rfl, rfl, rfl⟩

/-! ## The counters of a frame (R255) -/

theorem ofNat_toNat_bool (b : Bool) : BitVec.ofNat 32 b.toNat = if b then 1 else 0 := by cases b <;> rfl

/-- `RS_CORR_LAST[b]`: the count of a branch that was decoded, else 0. -/
theorem corrLastOf_rsStage (c : CfgRegs) (raw : List Byte) :
    corrLastOf (rsStage c raw).count
      = (List.range 8).map fun b =>
          if rsEn c ∧ b < rsDepth c then BitVec.ofNat 32 ((rsStage c raw).count.getD b 0) else 0 := by
  refine List.map_congr_left fun b _ => ?_
  split
  · rfl
  · next hb =>
    have hnone : (rsStage c raw).count.length ≤ b := by
      unfold rsStage
      split
      · next hrs =>
        obtain ⟨-, hcount, -⟩ := rsDecodeFrame_lengths c (rsProfile c) raw
        rw [hcount]
        exact Nat.le_of_not_lt fun hlt => hb ⟨hrs, hlt⟩
      · exact Nat.zero_le b
    rw [List.getD_eq_default _ _ hnone]
    rfl

theorem zipWith_add_map_range {l : List Word} {n : Nat} (hl : l.length = n) (f : Nat → Word) :
    List.zipWith (fun a b => a + b) l ((List.range n).map f) = (List.range n).map fun b => l.getD b 0 + f b := by
  refine List.ext_getElem (by simp [hl]) fun b hb _ => ?_
  have hlt : b < l.length := by simp only [List.length_zipWith] at hb; omega
  simp [List.getD_eq_getElem?_getD, hlt]

/-- `UPDATE_COUNTERS` with the tag and the counts of a frame (R255). -/
theorem updateCounters_makeTag {k : Counters} (htotal : k.rsCorrTotal.length = 8) (c : CfgRegs) (flag : Bool) (lock : Lock)
    (uncorr : List Bool) (ber : Nat) (raw : List Byte) :
    updateCounters k (makeTag c flag lock uncorr ber) (rsStage c raw).count ber
      = let corr := fun b : Nat =>
          if rsEn c ∧ b < rsDepth c then BitVec.ofNat 32 ((rsStage c raw).count.getD b 0) else 0
        { k with
          framesEmitted := k.framesEmitted + 1
          mismatchFrames := k.mismatchFrames + (if flag then 1 else 0)
          rsUncorrFrames := k.rsUncorrFrames + (if rsEn c ∧ true ∈ uncorr then 1 else 0)
          lastVitBer := BitVec.ofNat 32 ber
          lastTag := makeTag c flag lock uncorr ber
          rsCorrLast := (List.range 8).map corr
          rsCorrTotal := (List.range 8).map fun b => k.rsCorrTotal.getD b 0 + corr b } := by
  rw [updateCounters, bitOf, bitOf, makeTag_mismatch, makeTag_rsFail, corrLastOf_rsStage, zipWith_add_map_range htotal,
    ofNat_toNat_bool, ofNat_toNat_bool]
  simp only [and_any_id_iff]

/-- Settles O37: the values asked for are those that the stages of the model's chain hand on. -/
theorem frameEmitQueuesOneFrame : Obligations.FrameEmitQueuesOneFrame := by
  intro s hrun hphase hend hframe hchecks htotal p u m x
  have hmarker : 0 < markerLen s.cfg := markerLen_pos_of_check_passes (hchecks 1 (by decide))
  have hdiffMode : (s.cfg.mode.extractLsb' 3 2).toNat = diffMode s.cfg := extractLsb'_toNat _ 3 2
  have hdepth : (s.cfg.mode.extractLsb' 10 4).toNat = rsDepth s.cfg := extractLsb'_toNat _ 10 4
  let y := derandStage s.cfg x
  let d := diffFrame (diffMode s.cfg) s.lastBit m y
  let v := byteStage s.cfg s.pm d.1
  let r := rsStage s.cfg v.bytes
  have hm : m ≠ [] := List.ne_nil_of_length_pos (by simpa [m] using hmarker)
  have hx : x.length = payloadLen s.cfg := framePayload_length s.cfg s.soft s.deframer.hyp p
  have hy : y ≠ [] := List.ne_nil_of_length_pos (by simpa [y, hx, payloadLen] using hframe)
  have hraw : v.bytes.length = bytesIn s.cfg := byteStage_bytes_length (by simp [d, y, hx])
  refine ⟨y, d.1, d.2, v.bytes, v.ber, v.pm, r.bytes, r.count, r.uncorr, derandStage_as_row s x, ?_,
    byteStage_as_row (hchecks 5 (by decide)) d.1, rsStage_as_row (hchecks 6 (by decide)) hraw, rsStage_bytes_length hraw, ?_⟩
  · rw [hdiffMode]
    exact diffOf_diffFrame _ _ hm hy
  · have hcounters := updateCounters_makeTag htotal s.cfg s.deframer.flag s.deframer.lock r.uncorr v.ber v.bytes
    rw [hdepth, exec_frameEmit_selected ((frameComplete_iff s).mpr ⟨hrun, hphase, hend⟩)]
    intro tag corr
    have hqueued := congrArg
      (fun k : Counters => pushFrame { bytes := r.bytes, tag := tag } { s with lastBit := d.2, pm := v.pm, counters := k })
      hcounters
    exact congrArg Host.Outcome.next hqueued

end Sys2Proof.Machine
end

section
/-! SUPPORT. The host commands by their rows and by a write to `CMD`, the checks of `START` in the terms of the statements, the
run-state transitions, and the register map by access class (47_host_commands.md; 10_state.md R22). -/

namespace Sys2Proof.Machine

/-! ## Commands by their rows and by a write to `CMD` (R280) -/

theorem exec_decodeCommand (w : Word) (s : State) : exec (decodeCommand w) s = .next (runCommand (commandOf w) s) := by
  unfold decodeCommand
  cases commandOf w <;> rfl

theorem exec_write_of_aligned {off : BitVec 12} (halign : off.toNat % 4 = 0) (v : Word) (s : State) :
    exec (.write off v) s = .next (writeWord off v s) :=
  if_pos (decide_eq_true halign)

/-- A command runs the same by its row and by a write of its word. -/
theorem exec_of_isCommand {i : Instr} {w : Word} (hi : IsCommand i (decodeCommand w) w) (s : State) :
    exec i s = .next (runCommand (commandOf w) s) := by
  rcases hi with rfl | rfl
  · exact exec_decodeCommand w s
  · exact exec_write_of_aligned (by decide) w s

section Legality
variable {s : State} {cmd : Command}

theorem runCommand_of_legal (h : commandLegal s.run cmd = true) : runCommand cmd s = commandEffect cmd s := if_pos h

theorem runCommand_of_not_legal (h : ¬ commandLegal s.run cmd = true) :
    runCommand cmd s = { s with errors := { s.errors with cmdErr := true } } := if_neg h

theorem runCommand_start_of_idle (hidle : s.run = .idle) : runCommand .start s = startCommand s.cfg s :=
  runCommand_of_legal ((commandLegal_start s.run).mpr hidle)

theorem runCommand_start_of_not_idle (hrun : s.run ≠ .idle) :
    runCommand .start s = { s with errors := { s.errors with cmdErr := true } } :=
  runCommand_of_not_legal ((commandLegal_start s.run).not.mpr hrun)

theorem runCommand_stop_of_not_idle (hrun : s.run ≠ .idle) : runCommand .stop s = stopCommand s :=
  runCommand_of_legal ((commandLegal_stop s.run).mpr hrun)

theorem runCommand_stop_of_idle (hidle : s.run = .idle) :
    runCommand .stop s = { s with errors := { s.errors with cmdErr := true } } :=
  runCommand_of_not_legal ((commandLegal_stop s.run).not.mpr (not_not_intro hidle))

theorem runCommand_resync_of_running (hrun : s.run = .running) : runCommand .resync s = deframerResync s :=
  runCommand_of_legal ((commandLegal_resync s.run).mpr hrun)

theorem runCommand_resync_of_not_running (hrun : s.run ≠ .running) :
    runCommand .resync s = { s with errors := { s.errors with cmdErr := true } } :=
  runCommand_of_not_legal ((commandLegal_resync s.run).not.mpr hrun)

end Legality

/-- Settles O11: `NOP` is legal in every run state, and 0 is its word. -/
theorem nopChangesNothing : Obligations.NopChangesNothing := fun s =>
  ⟨exec_of_isCommand (w := 0) (.inl rfl) s, exec_of_isCommand (w := 0) (.inr rfl) s⟩

/-- Settles O14: `SOFT_RESET` is legal in every run state. -/
theorem softResetKeepsConfiguration : Obligations.SoftResetKeepsConfiguration := exec_decodeCommand 3

/-- Settles O16: `CLEAR_COUNTERS` is legal in every run state. -/
theorem clearCountersClearsOnlyCounters : Obligations.ClearCountersClearsOnlyCounters := exec_decodeCommand 5

/-- Settles O17: `CLEAR_ERRORS` is legal in every run state. -/
theorem clearErrorsClearsOnlyErrors : Obligations.ClearErrorsClearsOnlyErrors := exec_decodeCommand 6

/-- Settles O18: none of these commands is legal in the run state, and an illegal word in none. -/
theorem illegalCommandsOnlySetCmdErr : Obligations.IllegalCommandsOnlySetCmdErr := by
  refine fun s => ⟨fun w hw => ?_, fun i hi => ?_⟩
  · have hillegal : commandOf w = .illegal := (commandOf_illegal_iff w).mpr ((illegal_word_iff w).mp hw)
    refine ⟨?_, rfl⟩
    rw [exec_of_isCommand (.inr rfl) s, hillegal]
    rfl
  · rcases hi with ⟨hstart, hrun⟩ | ⟨hstop, hidle⟩ | ⟨hresync, hrun⟩
    · exact (exec_of_isCommand (w := 1) hstart s).trans (congrArg _ (runCommand_start_of_not_idle hrun))
    · exact (exec_of_isCommand (w := 2) hstop s).trans (congrArg _ (runCommand_stop_of_idle hidle))
    · exact (exec_of_isCommand (w := 4) hresync s).trans (congrArg _ (runCommand_resync_of_not_running hrun))

/-! ## `STOP` and `RESYNC` (R273, R275) -/

/-- Both cases of `STOP` at once: `ABORTED` stays set, or becomes set with a partly delivered head frame. -/
theorem stopCommand_eq (s : State) :
    stopCommand s
      = { s with
          run := .stopped, queue := [], txPos := 0
          errors := { s.errors with aborted := s.errors.aborted || decide (s.queue ≠ [] ∧ 0 < s.txPos) } } := by
  rcases stopCommand_cases s with ⟨hqueue, htx, h⟩ | ⟨hcut, h⟩ <;> rw [h]
  · rw [decide_eq_true ⟨hqueue, htx⟩, Bool.or_true]
  · rw [decide_eq_false hcut, Bool.or_false]

/-- Settles O13: the stopped state has an empty queue, which opens the input port and closes the output port. -/
theorem stopDiscardsAndCloses : Obligations.StopDiscardsAndCloses := by
  refine fun s => ⟨fun hrun => ?_, fun hidle => congrArg _ (runCommand_stop_of_idle hidle)⟩
  have hstop : exec .stop s = .next (stopCommand s) := congrArg _ (runCommand_stop_of_not_idle hrun)
  refine ⟨hstop.trans (congrArg _ (stopCommand_eq s)), stopCommand s, hstop, ?_, ?_⟩
  · exact (inReady_iff _).mpr (.inr (.inl rfl))
  · exact (outClosed_iff _).mpr ⟨.inl rfl, stopCommand_queue s⟩

/-- Settles O15: `deframer_resync()` where the command is legal. -/
theorem resyncRestartsSearch : Obligations.ResyncRestartsSearch := fun _ =>
  ⟨fun hrun => congrArg _ (runCommand_resync_of_running hrun),
    fun hrun => congrArg _ (runCommand_resync_of_not_running hrun)⟩

/-! ## The checks of `START` (R272) -/

section Checks
variable {c : CfgRegs}

/-- Check `k` of `START` fails, as the model computes it. -/
def checkFails (c : CfgRegs) : Nat → Bool
  | 1 => failsMarkerLen c
  | 2 => failsFrameLen c
  | 3 => failsAlignment c
  | 4 => failsDiffMode c
  | 5 => failsVitCode c
  | 6 => failsRsGeometry c
  | 7 => failsLockCfg c
  | _ => false

theorem failsVitCode_iff : failsVitCode c = true ↔ StartCheckFails c 5 := by
  have hcode := codeLegal_iff (vitCode c)
  rw [failsVitCode, Bool.and_eq_true, Bool.not_eq_true', ← Bool.not_eq_true, hcode, StartCheckFails]
  refine and_congr_right fun _ => ?_
  omega

theorem failsRsGeometry_iff : failsRsGeometry c = true ↔ StartCheckFails c 6 := by
  have hgeometry := rsGeometryLegal_iff c (bytesIn c)
  rw [failsRsGeometry, Bool.and_eq_true, Bool.not_eq_true', ← Bool.not_eq_true, hgeometry, StartCheckFails]
  refine and_congr_right fun _ => ?_
  omega

theorem checkFails_iff (k : Nat) : checkFails c k = true ↔ StartCheckFails c k := by
  match k with
  | 1 => exact failsMarkerLen_iff c
  | 2 => exact failsFrameLen_iff c
  | 3 => exact failsAlignment_iff c
  | 4 => exact decide_eq_true_iff
  | 5 => exact failsVitCode_iff
  | 6 => exact failsRsGeometry_iff
  | 7 => exact decide_eq_true_iff
  | 0 | _ + 8 => exact Bool.false_eq_true.to_iff

/-- `START` reports the first failing check by its number. -/
theorem startFail_of_first_failing {k : Nat} (hk : checkFails c k = true) (hfirst : ∀ j < k, checkFails c j = false) :
    startFail c = BitVec.ofNat 3 k := by
  match k with
  | 1 | 2 | 3 | 4 | 5 | 6 | 7 =>
    simp only [Nat.forall_lt_succ_right, checkFails] at hk hfirst
    simp [startFail, hk, hfirst]
  | 0 | _ + 8 => cases hk

/-- `START` accepts exactly the legal configurations. -/
theorem startFail_eq_zero_iff_configLegal : startFail c = 0 ↔ ConfigLegal c := by
  have hpasses : ConfigLegal c ↔ ∀ k, checkFails c k = false := by
    simp only [ConfigLegal, ← checkFails_iff, Bool.not_eq_true]
  rw [startFail_eq_zero_iff, hpasses]
  refine ⟨fun ⟨hmarker, hframe, halign, hdiff, hcode, hgeometry, hlock⟩ k => ?_,
    fun h => ⟨h 1, h 2, h 3, h 4, h 5, h 6, h 7⟩⟩
  match k with
  | 1 => exact hmarker
  | 2 => exact hframe
  | 3 => exact halign
  | 4 => exact hdiff
  | 5 => exact hcode
  | 6 => exact hgeometry
  | 7 => exact hlock
  | 0 | _ + 8 => rfl

end Checks

theorem startCommand_of_legal {s : State} (hlegal : ConfigLegal s.cfg) : startCommand s.cfg s = startRun s :=
  if_pos (startFail_eq_zero_iff_configLegal.mpr hlegal)

theorem startCommand_of_check_fails {s : State} {k : Nat} (hk : StartCheckFails s.cfg k) :
    startCommand s.cfg s = raiseCfgFail (startFail s.cfg) s :=
  if_neg fun h => startFail_eq_zero_iff_configLegal.mp h k hk

/-- Settles O12: in `IDLE` the model's chain of checks stops at the first that fails. -/
theorem startValidatesAndBegins : Obligations.StartValidatesAndBegins := by
  refine fun s => ⟨fun hidle hlegal => ?_, fun hidle k hk hfirst => ?_,
    fun hrun => congrArg _ (runCommand_start_of_not_idle hrun)⟩
  · rw [exec_start_of_idle hidle, startCommand_of_legal hlegal]
    rfl
  · have hcode : startFail s.cfg = BitVec.ofNat 3 k :=
      startFail_of_first_failing ((checkFails_iff k).mpr hk) fun j hj =>
        Bool.eq_false_iff.mpr ((checkFails_iff j).not.mpr (hfirst j hj))
    rw [exec_start_of_idle hidle, startCommand_of_check_fails hk, hcode, raiseCfgFail_eq]

/-! ## Run-state transitions (R281) -/

/-- What instruction `i` may do to the run state between `s` and `t`: nothing, or a transition of the table (R281). -/
def RunMoves (i : Instr) (s t : State) : Prop :=
  t.run = s.run
    ∨ (s.run = .idle ∧ t.run = .running ∧ ConfigLegal s.cfg ∧ IsCommand i .start 1)
    ∨ (s.run = .running ∧ t.run = .done ∧ ∃ d, i = .symLast d)
    ∨ ((s.run = .running ∨ s.run = .done) ∧ t.run = .stopped ∧ IsCommand i .stop 2)
    ∨ (t.run = .idle ∧ IsCommand i .softReset 3)

theorem stopCommand_run (s : State) : (stopCommand s).run = .stopped := rfl

theorem runMoves_startCommand {i : Instr} {s : State} (hi : IsCommand i .start 1) (hidle : s.run = .idle) :
    RunMoves i s (startCommand s.cfg s) := by
  rcases startCommand_cases s.cfg s with ⟨hlegal, h⟩ | ⟨-, h⟩ <;> rw [h]
  · exact .inr (.inl ⟨hidle, rfl, startFail_eq_zero_iff_configLegal.mp hlegal, hi⟩)
  · exact .inl (raiseCfgFail_run _ s)

/-- A `STOP` in `STOPPED` leaves `RUN` as it was. -/
theorem runMoves_stopCommand {i : Instr} {s : State} (hi : IsCommand i .stop 2) (hrun : s.run ≠ .idle) :
    RunMoves i s (stopCommand s) := by
  cases hs : s.run with
  | idle => exact absurd hs hrun
  | running => exact .inr (.inr (.inr (.inl ⟨.inl hs, stopCommand_run s, hi⟩)))
  | stopped => exact .inl ((stopCommand_run s).trans hs.symm)
  | done => exact .inr (.inr (.inr (.inl ⟨.inr hs, stopCommand_run s, hi⟩)))

theorem runMoves_runCommand {i : Instr} {w : Word} (hi : IsCommand i (decodeCommand w) w) (s : State) :
    RunMoves i s (runCommand (commandOf w) s) := by
  rcases runCommand_cases (commandOf w) s with ⟨hlegal, h⟩ | ⟨-, h⟩ <;> rw [h]
  · cases hw : commandOf w with
    | start =>
      obtain rfl := eq_one_of_commandOf_start hw
      exact runMoves_startCommand hi ((commandLegal_start s.run).mp hlegal)
    | stop =>
      obtain rfl := eq_two_of_commandOf_stop hw
      exact runMoves_stopCommand hi ((commandLegal_stop s.run).mp hlegal)
    | softReset =>
      obtain rfl := eq_three_of_commandOf_softReset hw
      exact .inr (.inr (.inr (.inr ⟨rfl, hi⟩)))
    | _ => exact .inl rfl
  · exact .inl (raiseStatus_run .cmdErr s)

theorem runMoves_takeBeat {i : Instr} {last : Bool} {d : Soft} (hi : i = if last then .symLast d else .sym d)
    (s : State) : RunMoves i s (takeBeat last d s) := by
  rcases takeBeat_cases last d s with ⟨-, h⟩ | ⟨-, h⟩ | ⟨hrun, -, h⟩ <;> rw [h]
  · exact .inl rfl
  · exact .inl rfl
  · cases last with
    | false => exact .inl (acceptSoft_run d s)
    | true => exact .inr (.inr (.inl ⟨hrun, rfl, d, hi⟩))

theorem deliverBeat_run (b : OutBeat) (s : State) : (deliverBeat b s).run = s.run := by
  rcases deliverBeat_cases b s with ⟨-, h⟩ | ⟨-, h⟩ <;> rw [h]

theorem Effect.runMoves {s t : State} {i : Instr} (he : Effect s i t) : RunMoves i s t := by
  cases he with
  | command w hi => exact runMoves_runCommand hi s
  | reservedStart hidle => exact .inl ((congrArg State.run (startCommand_withDiffReserved s)).trans (raiseCfgFail_run _ s))
  | raised i b => exact .inl (raiseStatus_run b s)
  | stored off v r hr ha hidle => exact .inl rfl
  | answered i a last => exact .inl rfl
  | viterbi z a hcode => exact .inl rfl
  | beat last d hi => exact runMoves_takeBeat hi s
  | delivered b hb => exact .inl (deliverBeat_run b s)
  | attempted hw => exact .inl (markerWrites_acqEval s).bitWrites.run_eq
  | checked hw => exact .inl (markerWrites_checkEval s).bitWrites.run_eq
  | collected hf => exact .inl rfl
  | emitted hf => exact .inl rfl

/-- Settles O57: each effect makes one of the table's transitions or none, and each transition is its command's or beat's. -/
theorem runStateTransitionsComplete : Obligations.RunStateTransitionsComplete := by
  refine ⟨fun i s t hexec hchanged => (exec_effect hexec).runMoves.resolve_left hchanged,
    fun i s => ⟨fun hidle hlegal hi => ?_, fun hrun hready d hi => ?_, fun hrun hi => ?_, fun hi => ?_⟩, fun _ => rfl⟩
  · refine ⟨_, exec_of_isCommand (w := 1) hi s, ?_⟩
    exact congrArg State.run ((runCommand_start_of_idle hidle).trans (startCommand_of_legal hlegal))
  · have hroom : s.queue.length < Config.outCap := by simpa [inReady_iff, hrun] using hready
    exact ⟨_, hi ▸ exec_symLast_of_running hrun hroom d, rfl⟩
  · have hlegal : s.run ≠ .idle := by rcases hrun with h | h <;> simp [h]
    exact ⟨_, exec_of_isCommand (w := 2) hi s, congrArg State.run (runCommand_stop_of_not_idle hlegal)⟩
  · exact ⟨_, exec_of_isCommand (w := 3) hi s, rfl⟩

/-! ## The register map by access class (10_state.md R22) -/

/-- The access class at an aligned offset but that of `CMD`: a configuration register, a read-only register, or reserved. -/
theorem regAt_aligned {off : BitVec 12} (halign : off.toNat % 4 = 0) :
    (0x010 ≤ off.toNat ∧ off.toNat ≤ 0x030 → ∃ r, regAt off = some r ∧ accessOf r = .rwi)
      ∧ (off.toNat < 0x008 ∨ off.toNat = 0x00C ∨ (0x040 ≤ off.toNat ∧ off.toNat ≤ 0x060)
          ∨ (0x080 ≤ off.toNat ∧ off.toNat ≤ 0x0C8) → ∃ r, regAt off = some r ∧ accessOf r = .ro)
      ∧ ((0x030 < off.toNat ∧ off.toNat < 0x040) ∨ (0x060 < off.toNat ∧ off.toNat < 0x080) ∨ 0x0C8 < off.toNat →
          regAt off = none) := by
  unfold regAt
  split
  case h_26 =>
    simp only [imp_false] at *
    rw [if_neg (not_not_intro halign)]
    split_ifs with htotal hlast
    · exact ⟨fun h => by omega, fun _ => ⟨_, rfl, rfl⟩, fun h => by omega⟩
    · exact ⟨fun h => by omega, fun _ => ⟨_, rfl, rfl⟩, fun h => by omega⟩
    · exact ⟨fun h => by omega, fun h => by omega, fun _ => rfl⟩
  all_goals
    next hoff =>
    simp [accessOf, hoff]

theorem regAt_rsCorrTotal {off : BitVec 12} {b : Nat} (hb : b < 8) (hoff : off.toNat = 0x080 + 4 * b) :
    regAt off = some (.rsCorrTotal b) := by
  unfold regAt
  rw [hoff]
  interval_cases b <;> rfl

theorem regAt_rsCorrLast {off : BitVec 12} {b : Nat} (hb : b < 8) (hoff : off.toNat = 0x0A0 + 4 * b) :
    regAt off = some (.rsCorrLast b) := by
  unfold regAt
  rw [hoff]
  interval_cases b <;> rfl

theorem exec_read_of_aligned {off : BitVec 12} (halign : off.toNat % 4 = 0) (s : State) :
    exec (.read off) s = .next { s with answer := .rdata (readWord s off) } :=
  if_pos (decide_eq_true halign)

/-- Settles O7: the value of the register that stands at the offset. -/
theorem readAnswersRegisterValue : Obligations.ReadAnswersRegisterValue := by
  intro s off halign
  refine ⟨exec_read_of_aligned halign s, ?_, ?_, ?_, ?_, ?_, ?_, ?_, ?_, ?_, ?_, ?_, ?_, ?_, ?_, ?_, ?_, ?_, ?_, ?_, ?_, ?_,
    ?_, fun b hb hoff => ?total, fun b hb hoff => ?last, ?_, ?_, ?_, fun hreserved => ?reserved⟩
  case total => exact readWord_of_regAt (regAt_rsCorrTotal hb hoff)
  case last => exact readWord_of_regAt (regAt_rsCorrLast hb hoff)
  case reserved =>
    obtain ⟨-, -, hnone⟩ := regAt_aligned halign
    exact readWord_reserved (hnone hreserved)
  all_goals
    rintro rfl
    rfl

/-! ## Writes by access class (R271) -/

section Writes
variable {s : State} {off : BitVec 12} {r : Reg}

theorem writeWord_of_rwi (hr : regAt off = some r) (ha : accessOf r = .rwi) (v : Word) :
    writeWord off v s = writeCfg r v s := by
  simp only [writeWord, hr, ha]

theorem writeWord_rwi_of_idle (hr : regAt off = some r) (ha : accessOf r = .rwi) (hidle : s.run = .idle) (v : Word) :
    writeWord off v s = { s with cfg := setCfgReg s.cfg r (v &&& storedMask r) } :=
  (writeWord_of_rwi hr ha v).trans (if_pos hidle)

theorem writeWord_rwi_of_not_idle (hr : regAt off = some r) (ha : accessOf r = .rwi) (hrun : s.run ≠ .idle) (v : Word) :
    writeWord off v s = { s with errors := { s.errors with wrErr := true } } :=
  (writeWord_of_rwi hr ha v).trans (if_neg hrun)

theorem writeWord_of_ro (hr : regAt off = some r) (ha : accessOf r = .ro) (v : Word) :
    writeWord off v s = { s with errors := { s.errors with wrErr := true } } := by
  simp only [writeWord, hr, ha, raiseStatus]

theorem writeWord_of_reserved (hr : regAt off = none) (v : Word) : writeWord off v s = s := by
  simp only [writeWord, hr]

end Writes

/-- The aligned offsets of the configuration registers. -/
theorem cfg_offset_cases {off : BitVec 12} (halign : off.toNat % 4 = 0)
    (hrange : 0x010 ≤ off.toNat ∧ off.toNat ≤ 0x030) :
    off = 0x010 ∨ off = 0x014 ∨ off = 0x018 ∨ off = 0x01C ∨ off = 0x020 ∨ off = 0x024 ∨ off = 0x028 ∨ off = 0x02C
      ∨ off = 0x030 := by
  simp only [← BitVec.toNat_inj, BitVec.reduceToNat, BitVec.ofNat_eq_ofNat]
  omega

/-- `STORED_MASK` of a register without reserved bits. -/
theorem and_full_mask (v : Word) : v &&& 4294967295#32 = v := BitVec.and_allOnes

/-- Settles O8: the access class of the register at the offset decides, and in `IDLE` the offset selects the register stored. -/
theorem writeFollowsAccessClass : Obligations.WriteFollowsAccessClass := by
  intro s off v halign
  obtain ⟨hcfg, hro, hreserved⟩ := regAt_aligned halign
  rw [exec_write_of_aligned halign]
  refine ⟨fun hcmd => ?_, fun hrange hidle => ?_, fun hrange hrun => ?_, fun hrange => ?_, fun hrange => ?_⟩
  · rw [exec_decodeCommand, hcmd]
    rfl
  · rcases cfg_offset_cases halign hrange with rfl | rfl | rfl | rfl | rfl | rfl | rfl | rfl | rfl
    all_goals
      refine ⟨_, congrArg _ (writeWord_rwi_of_idle rfl rfl hidle v), ?_⟩
      simp [setCfgReg, storedMask, and_full_mask]
  · obtain ⟨r, hr, ha⟩ := hcfg hrange
    rw [writeWord_rwi_of_not_idle hr ha hrun]
  · obtain ⟨r, hr, ha⟩ := hro hrange
    rw [writeWord_of_ro hr ha]
  · rw [writeWord_of_reserved (hreserved hrange)]

end Sys2Proof.Machine
end
